-- ==== Sys2Proof/Word.lean ====
section
/-! DEFINITION. Word types: the fixed unsigned widths of `00_scope.md` R10 and the Block of R12. -/

namespace Sys2Proof

/-- `u8`: one byte of `MEM` (`00_scope.md` R10). -/
abbrev Byte := BitVec 8

/-- `u32`: a round key or one word of an SM4 block (`00_scope.md` R10). -/
abbrev Word32 := BitVec 32

/-- `u64`: an argument register, a command word, a window register (`00_scope.md` R10). -/
abbrev Word64 := BitVec 64

/-- A Block: exactly 16 bytes (`00_scope.md` R12), held as the number `BE128` of them: byte `i` of
the Block is bits `127 - 8*i` down to `120 - 8*i`. `A xor B` on Blocks is `^^^` (DEDUCED,
log entry 7, safe). -/
abbrev Block := BitVec 128

/-- A field element of GF(2^128): bit `i` is the coefficient of `x^i` (`46_gf128.md` R200). It has the
width of a Block but not its meaning: `46_gf128.md` R205 and R206 map between the two. -/
abbrev Elem := BitVec 128

end Sys2Proof
end

