-- ==== Sys2Proof/Syntax.lean ====
section
/-! DEFINITION. The instructions: the 20 commands of `30_encoding.md` R75, one constructor per row of
`spec/opcode_table.json`. A command word carries no immediate and no register number (R74), so no
constructor has an argument. -/

namespace Sys2Proof

/-- A command of the CORE (`30_encoding.md` R75). -/
inductive Instr where
  /-- KEXP: expand a key into the round-key bank (`41_key_schedule.md` R121). -/
  | kexp
  /-- BLK.S.E: encrypt one block, ScalarCore (`42_block_scalar_table.md` R133). -/
  | blkSE
  /-- BLK.S.D: decrypt one block, ScalarCore (`42_block_scalar_table.md` R134). -/
  | blkSD
  /-- BLK.T.E: encrypt one block, TableCore (`42_block_scalar_table.md` R138). -/
  | blkTE
  /-- BLK.T.D: decrypt one block, TableCore (`42_block_scalar_table.md` R139). -/
  | blkTD
  /-- BLKS.AUTO.E: encrypt blocks, best backend (`45_dispatch.md` R187). -/
  | blksAutoE
  /-- BLKS.AUTO.D: decrypt blocks, best backend (`45_dispatch.md` R188). -/
  | blksAutoD
  /-- BLKS.S.E: encrypt blocks, ScalarCore (`45_dispatch.md` R189). -/
  | blksSE
  /-- BLKS.S.D: decrypt blocks, ScalarCore (`45_dispatch.md` R190). -/
  | blksSD
  /-- BLKS.T.E: encrypt blocks, TableCore (`45_dispatch.md` R191). -/
  | blksTE
  /-- BLKS.T.D: decrypt blocks, TableCore (`45_dispatch.md` R192). -/
  | blksTD
  /-- BLKS.VA.E: encrypt blocks, VectorCoreA requested (`45_dispatch.md` R193). -/
  | blksVaE
  /-- BLKS.VA.D: decrypt blocks, VectorCoreA requested (`45_dispatch.md` R194). -/
  | blksVaD
  /-- BLKS.VB.E: encrypt blocks, VectorCoreB requested (`45_dispatch.md` R195). -/
  | blksVbE
  /-- BLKS.VB.D: decrypt blocks, VectorCoreB requested (`45_dispatch.md` R196). -/
  | blksVbD
  /-- GFMUL: multiply two field elements (`46_gf128.md` R208). -/
  | gfmul
  /-- GHASH: hash AAD and data (`47_ghash.md` R220). -/
  | ghash
  /-- INC32: increment a counter block (`48_gcm.md` R232). -/
  | inc32
  /-- GCMENC: authenticated encryption (`48_gcm.md` R236). -/
  | gcmenc
  /-- GCMDEC: authenticated decryption (`48_gcm.md` R240). -/
  | gcmdec
  deriving DecidableEq, Repr

end Sys2Proof
end

