-- ==== Sys2Proof/Decode.lean ====
section
/-! DEFINITION. The command word: its fields (`30_encoding.md` R73), the decoder of R76, total on every
64-bit value and rejecting by name, and the encoder of the table R75. -/

namespace Sys2Proof

/-- Why a command word is a reserved encoding (`30_encoding.md` R77). All four have the same effect,
`IllegalCommand`; the name only says which part of R76 refused the word. -/
inductive DecodeError where
  /-- a bit of 63:12 is set -/
  | reservedBits
  /-- `OPC` is 0x00 or 0x09 to 0xFF -/
  | reservedOpcode
  /-- this `OPC` does not have this `BK` -/
  | reservedBackend
  /-- this `OPC` has no `DIR` and the bit is set -/
  | reservedDirection
  deriving DecidableEq, Repr

/-- `OPC`, bits 7:0 (`30_encoding.md` R73). -/
def opcOf (w : Word64) : BitVec 8 := w.extractLsb' 0 8

/-- `BK`, bits 10:8 (`30_encoding.md` R73). -/
def bkOf (w : Word64) : BitVec 3 := w.extractLsb' 8 3

/-- `DIR`, bit 11: 0 encrypt, 1 decrypt (`30_encoding.md` R73). -/
def dirOf (w : Word64) : BitVec 1 := w.extractLsb' 11 1

/-- `ZERO`, bits 63:12, which must be 0 (`30_encoding.md` R73). -/
def zeroOf (w : Word64) : BitVec 52 := w.extractLsb' 12 52

/-- An opcode that has neither `BK` nor `DIR`: both must be 0 (`30_encoding.md` R73, R76). -/
def decodePlain (i : Instr) (bk : BitVec 3) (dir : BitVec 1) : Except DecodeError Instr :=
  if bk ≠ 0 then .error .reservedBackend
  else if dir ≠ 0 then .error .reservedDirection
  else .ok i

/-- `OPC` 0x02: `BK` 1 or 2, either direction (`30_encoding.md` R75, R76). -/
def decodeBlk (bk : BitVec 3) (dir : BitVec 1) : Except DecodeError Instr :=
  match bk.toNat, dir.toNat with
  | 1, 0 => .ok .blkSE
  | 1, _ => .ok .blkSD
  | 2, 0 => .ok .blkTE
  | 2, _ => .ok .blkTD
  | _, _ => .error .reservedBackend

/-- `OPC` 0x03: `BK` 0 to 4, either direction (`30_encoding.md` R75, R76). -/
def decodeBlks (bk : BitVec 3) (dir : BitVec 1) : Except DecodeError Instr :=
  match bk.toNat, dir.toNat with
  | 0, 0 => .ok .blksAutoE
  | 0, _ => .ok .blksAutoD
  | 1, 0 => .ok .blksSE
  | 1, _ => .ok .blksSD
  | 2, 0 => .ok .blksTE
  | 2, _ => .ok .blksTD
  | 3, 0 => .ok .blksVaE
  | 3, _ => .ok .blksVaD
  | 4, 0 => .ok .blksVbE
  | 4, _ => .ok .blksVbD
  | _, _ => .error .reservedBackend

/-- The command a word encodes (`30_encoding.md` R76). -/
def decode (w : Word64) : Except DecodeError Instr :=
  if zeroOf w ≠ 0 then .error .reservedBits
  else match (opcOf w).toNat with
    | 0x01 => decodePlain .kexp (bkOf w) (dirOf w)
    | 0x02 => decodeBlk (bkOf w) (dirOf w)
    | 0x03 => decodeBlks (bkOf w) (dirOf w)
    | 0x04 => decodePlain .gfmul (bkOf w) (dirOf w)
    | 0x05 => decodePlain .ghash (bkOf w) (dirOf w)
    | 0x06 => decodePlain .inc32 (bkOf w) (dirOf w)
    | 0x07 => decodePlain .gcmenc (bkOf w) (dirOf w)
    | 0x08 => decodePlain .gcmdec (bkOf w) (dirOf w)
    | _ => .error .reservedOpcode

/-- A command word from its fields, bits 63:12 zero (`30_encoding.md` R73). -/
def commandWord (opc : BitVec 8) (bk : BitVec 3) (dir : BitVec 1) : Word64 :=
  0#52 ++ dir ++ bk ++ opc

/-- The word of each command, from the columns `OPC`, `BK`, `DIR` of `30_encoding.md` R75. -/
def encode : Instr → Word64
  | .kexp => commandWord 0x01 0 0
  | .blkSE => commandWord 0x02 1 0
  | .blkSD => commandWord 0x02 1 1
  | .blkTE => commandWord 0x02 2 0
  | .blkTD => commandWord 0x02 2 1
  | .blksAutoE => commandWord 0x03 0 0
  | .blksAutoD => commandWord 0x03 0 1
  | .blksSE => commandWord 0x03 1 0
  | .blksSD => commandWord 0x03 1 1
  | .blksTE => commandWord 0x03 2 0
  | .blksTD => commandWord 0x03 2 1
  | .blksVaE => commandWord 0x03 3 0
  | .blksVaD => commandWord 0x03 3 1
  | .blksVbE => commandWord 0x03 4 0
  | .blksVbD => commandWord 0x03 4 1
  | .gfmul => commandWord 0x04 0 0
  | .ghash => commandWord 0x05 0 0
  | .inc32 => commandWord 0x06 0 0
  | .gcmenc => commandWord 0x07 0 0
  | .gcmdec => commandWord 0x08 0 0

/-- The instruction the decoder reads from a row of `spec/opcode_table.json` whose bits are `w`: one
64-bit command word, bit 0 least significant, every bit above `nbits` zero. -/
def decodeTableWord (nbits w : Nat) : Option Instr :=
  match decode (BitVec.ofNat 64 (w % 2 ^ nbits)) with
  | .ok i => some i
  | .error _ => none

end Sys2Proof
end

