-- ==== Sys2Proof/Machine/Bytes.lean ====
section
/-! DEFINITION. Byte sequences and Blocks: the conversions of `00_scope.md` R12 (always big-endian,
`20_memory.md` R54), padding to whole Blocks (`47_ghash.md` R218) and bytewise XOR. -/

namespace Sys2Proof.Machine

/-- `BE128` of a byte sequence (`00_scope.md` R12): the first byte is the most significant. It is used on
sequences of exactly 16 bytes. -/
def blockOfBytes (bs : List Byte) : Block :=
  bs.foldl (fun acc b => (acc <<< 8) ||| b.setWidth 128) 0

/-- Byte `i` of a Block (`00_scope.md` R12). -/
def blockByte (b : Block) (i : Nat) : Byte := (b >>> (120 - 8 * i)).setWidth 8

/-- `ToBE128`: the 16 bytes of a Block, byte 0 first (`00_scope.md` R12). -/
def bytesOfBlock (b : Block) : List Byte := (List.range 16).map (blockByte b)

/-- The Blocks of a byte sequence of `16 * n` bytes, in address order. -/
def blocksOfBytes : Nat → List Byte → List Block
  | 0, _ => []
  | n + 1, bs => blockOfBytes (bs.take 16) :: blocksOfBytes n (bs.drop 16)

/-- The bytes of a sequence of Blocks, in order. -/
def bytesOfBlocks (bs : List Block) : List Byte := bs.flatMap bytesOfBlock

/-- `ceil(n / 16)` (`49_arithmetic_and_absent_families.md` R223). -/
def ceilDiv16 (n : Nat) : Nat := (n + 15) / 16

/-- `Pad16`: the fewest zero bytes that make the length a multiple of 16 (`47_ghash.md` R218). -/
def pad16 (bs : List Byte) : List Byte :=
  bs ++ List.replicate (16 * ceilDiv16 bs.length - bs.length) 0

/-- The 16-byte blocks of `Pad16(bs)`, in address order (`47_ghash.md` R218). -/
def paddedBlocks (bs : List Byte) : List Block := blocksOfBytes (ceilDiv16 bs.length) (pad16 bs)

/-- `A xor B` on byte sequences (`00_scope.md` R12); of the longer one only the leading bytes are used
(`48_gcm.md` R235). -/
def xorBytes (a b : List Byte) : List Byte := List.zipWith (· ^^^ ·) a b

end Sys2Proof.Machine
end

