-- ==== Sys2Proof/Config.lean ====
section
/-! DEFINITION. What an instance of the CORE fixes: the open parameters of `00_scope.md` R8 and R9
(`92_eei_decisions.md`, "Open parameters, collected") and the four backends of R1. They are plain data that
State carries unchanged, so every statement over states is a statement for every instance. -/

namespace Sys2Proof.Config

/-- `GF_BITORDER`, the mapping between a Block and a field element (`00_scope.md` R8). -/
inductive BitOrder where
  /-- the most significant bit of byte 0 is the coefficient of `x^0` (`46_gf128.md` R205) -/
  | reflected
  /-- the least significant bit of byte 15 is the coefficient of `x^0` (`46_gf128.md` R206) -/
  | natural
  deriving DecidableEq, Repr

/-- The addresses `lo <= a < hi`. -/
structure Range where
  lo : Nat
  hi : Nat
  deriving DecidableEq, Repr

/-- The four block backends (`00_scope.md` R1, R16). -/
inductive Backend where
  | scalarCore
  | tableCore
  | vectorCoreA
  | vectorCoreB
  deriving DecidableEq, Repr

/-- The parameters of one instance (`00_scope.md` R8, R9). `CORE_BASE` is not among them: no rule
depends on it (R8). `ALEN = 64` and `NX = 16` are fixed (`92_eei_decisions.md` D3). -/
structure Params where
  /-- `RAM`, the byte addresses a command may access: the union of these ranges. -/
  ram : List Range
  /-- `CAP_VA`: VectorCoreA is present. -/
  capVA : Bool
  /-- `CAP_VB`: VectorCoreB is present. -/
  capVB : Bool
  /-- `GF_BITORDER`. -/
  bitOrder : BitOrder
  deriving DecidableEq, Repr

/-- `2^ALEN`: one past the last address of `MEM` (`10_state.md` R32). -/
def addressLimit : Nat := 2 ^ 64

/-- The instance that `State.reset` describes. `GF_BITORDER` has the spec's default; the other values
are open in the spec. DESIGN CHOICE (log entry 1), unsafe: `RAM` is all of `MEM` and both vector units
are present. -/
def resetParams : Params :=
  { ram := [⟨0, 2 ^ 64⟩], capVA := true, capVB := true, bitOrder := .reflected }

end Sys2Proof.Config
end

