-- ==== Sys2Proof/Machine/State.lean ====
section
/-! DEFINITION. The state (`10_state.md` R20): the argument registers, the round-key bank with its valid
bit, the two written fields of STATUS and the buffer memory; with them, as the model's own fields, the
instance's parameters and the host's side of the register window. -/

namespace Sys2Proof.Machine

/-- The buffer memory `MEM` (`10_state.md` R32) as (address, byte) pairs in one canonical form
(`Memory.wf`): addresses strictly rising, no entry equal to `unlistedByte`. -/
abbrev Memory := List Host.Cell

/-- What a byte of `MEM` that no entry lists reads as. DESIGN CHOICE (log entry 2), unsafe: `MEM` after
reset is "unspecified" (`70_reset_and_hazards.md` R291). -/
def unlistedByte : Byte := 0

/-- What the outside world does to the CORE, one event at a time (`30_encoding.md` R70,
`70_reset_and_hazards.md` R290). -/
inductive HostEvent where
  /-- `WR off, v`: a 64-bit write to the window register at byte offset `off` (`30_encoding.md` R70). -/
  | wr (off : Nat) (v : Word64)
  /-- `RD off`: a 64-bit read of the window register at byte offset `off` (`30_encoding.md` R70). -/
  | rd (off : Nat)
  /-- The host's own store to `MEM` between transactions (`30_encoding.md` R70). -/
  | store (addr : Word64) (b : Byte)
  /-- The platform applies reset between transactions (`70_reset_and_hazards.md` R290). -/
  | reset
  deriving DecidableEq, Repr

/-- The state of one CORE instance, its host and the memory they share. -/
structure State where
  /-- `X0 .. X15`, the argument registers (`10_state.md` R21). -/
  x : Vector Word64 16
  /-- `RK[0..31]`, the round-key bank (`10_state.md` R24). -/
  rk : Vector Word32 32
  /-- `RKV`, the bank holds the key schedule of a key (`10_state.md` R25). -/
  rkv : Bool
  /-- `STATUS.ERR`, the result of the last command (`10_state.md` R27). -/
  err : BitVec 4
  /-- `STATUS.BKUSED`, the backends the last block command used (`10_state.md` R27). -/
  bkused : BitVec 4
  /-- `MEM`, the buffer memory shared with the host (`10_state.md` R32). -/
  mem : Memory
  /-- The instance's parameters, which nothing writes (`00_scope.md` R8, R9): the model's own field. -/
  params : Config.Params
  /-- The host's events not yet carried out, the next one first (`10_state.md` R22: the program is the
  finite list of host transactions): the model's own field (log entries 4 and 5). -/
  pending : List HostEvent
  /-- The values `RD` transactions have returned to the host, the latest first: the model's own field (log
  entry 5). -/
  returned : List Word64
  deriving DecidableEq, Repr

/-- Why the machine stops with no successor state. -/
inductive Fault where
  /-- A command that passed phases 1 and 2 names a buffer byte outside `RAM` or at or above `2^64`, or
  `2^60` blocks or more (`20_memory.md` R52, `60_exceptions.md` R265,
  `49_arithmetic_and_absent_families.md` R223). Raised by every command's phase 3. Safe: the spec gives
  such a command no successor state. -/
  | bufferFault
  deriving DecidableEq, Repr

/-- Why the model gives no successor state to what the host did. -/
inductive Refusal where
  /-- A command without a meaning in this model; raised by an arm of `exec` only. Safe. -/
  | notModelled (mnemonic : String)
  /-- A transaction whose offset is not a multiple of 8 below 0x200: "not a transaction of this hardware
  and the model refuses it" (`30_encoding.md` R72 (a)). Raised by the register window. Safe. -/
  | notATransaction (off : Nat)
  deriving DecidableEq, Repr

/-- What one step of this machine answers. -/
abbrev Result := Host.Outcome State Fault Refusal

/-- The state right after power-up, which is a reset (`70_reset_and_hazards.md` R290, R291): every
register 0, no key. The parameters and the content of `MEM` are open there (log entries 1 and 2); the
host has done nothing yet. -/
def State.reset : State where
  x := Vector.replicate 16 0
  rk := Vector.replicate 32 0
  rkv := false
  err := 0
  bkused := 0
  mem := []
  params := Config.resetParams
  pending := []
  returned := []

end Sys2Proof.Machine
end

