-- ==== Sys2Proof/Machine/Flags.lean ====
section
/-! DEFINITION. The flags: the error kinds and their codes (`60_exceptions.md` R260), the bits of `BKUSED`
and the words of the read-only registers STATUS, CAP and RKR (`10_state.md` R27, R29, R30). -/

namespace Sys2Proof.Machine

/-- The conditions a command can end with (`60_exceptions.md` R260). -/
inductive ErrorKind where
  | ok
  | invalidKeyLength
  | invalidIvLength
  | invalidTagLength
  | authenticationFailure
  | noKey
  | illegalCommand
  deriving DecidableEq, Repr

/-- The value of `STATUS.ERR` for an error kind (`60_exceptions.md` R260). -/
def errorCode : ErrorKind → BitVec 4
  | .ok => 0
  | .invalidKeyLength => 1
  | .invalidIvLength => 2
  | .invalidTagLength => 3
  | .authenticationFailure => 4
  | .noKey => 5
  | .illegalCommand => 6

/-- The bit of `BKUSED` a backend sets: STATUS bits 8 to 11 in this order (`10_state.md` R27,
`45_dispatch.md` R183). -/
def backendBit : Config.Backend → BitVec 4
  | .scalarCore => 0b0001
  | .tableCore => 0b0010
  | .vectorCoreA => 0b0100
  | .vectorCoreB => 0b1000

/-- One bit as a number. -/
def bitOf (b : Bool) : BitVec 1 := BitVec.ofBool b

/-- The word STATUS reads as: `ERR` in 3:0, `BKUSED` in 11:8, `RKV` in bit 16, zero elsewhere
(`10_state.md` R27). -/
def statusWord (s : State) : Word64 :=
  0#47 ++ bitOf s.rkv ++ 0#4 ++ s.bkused ++ 0#4 ++ s.err

/-- The word CAP reads as: `CAP_VA` in bit 0, `CAP_VB` in bit 1, zero elsewhere (`10_state.md` R29). -/
def capWord (s : State) : Word64 :=
  0#62 ++ bitOf s.params.capVB ++ bitOf s.params.capVA

/-- The word `RKRi` reads as: the round key zero-extended while `RKV = 1`, else 0 (`10_state.md` R30). -/
def rkrWord (s : State) (i : Fin 32) : Word64 :=
  if s.rkv then (s.rk.get i).setWidth 64 else 0

end Sys2Proof.Machine
end

