-- ==== Sys2Proof/Machine/Ops.lean ====
section
/-! DEFINITION. The named operations over memory and registers: byte memory in canonical form, the access
primitives of `20_memory.md` R50 to R52, the writes of registers, `raise` (`60_exceptions.md` R262: what
this hardware has in place of trap entry; there is no trap return, R272), the reset event
(`70_reset_and_hazards.md` R291) and the frame every command runs in (`30_encoding.md` R81). -/

namespace Sys2Proof.Machine

/-- The byte of `MEM` at an address (`10_state.md` R32). -/
def memRead : Memory → Nat → Byte
  | [], _ => unlistedByte
  | (k, v) :: m, a => if k = a then v else memRead m a

/-- `MEM[a] <- b` (`20_memory.md` R51), keeping the canonical form: the value an unlisted address reads
as leaves no entry. -/
def memWrite : Memory → Nat → Byte → Memory
  | [], a, b => if b = unlistedByte then [] else [(a, b)]
  | (k, v) :: m, a, b =>
    if a < k then (if b = unlistedByte then (k, v) :: m else (a, b) :: (k, v) :: m)
    else if a = k then (if b = unlistedByte then m else (a, b) :: m)
    else (k, v) :: memWrite m a b

/-- `MemRead(addr, n)`: `B[k] = MEM[addr + k]` for `0 <= k < n` (`20_memory.md` R50). The address is a
mathematical integer and never wraps (`49_arithmetic_and_absent_families.md` R223). -/
def memReadBytes (m : Memory) (a : Nat) : Nat → List Byte
  | 0 => []
  | n + 1 => memRead m a :: memReadBytes m (a + 1) n

/-- `MemWrite(addr, n, B)`: `MEM[addr + k] <- B[k]` for `0 <= k < n` (`20_memory.md` R51). -/
def memWriteBytes (m : Memory) (a : Nat) : List Byte → Memory
  | [] => m
  | b :: bs => memWriteBytes (memWrite m a b) (a + 1) bs

/-- Every entry lies at or above `lo`, the addresses rise strictly and no entry holds `unlistedByte`. -/
def memSortedFrom (lo : Nat) : Memory → Bool
  | [] => true
  | (k, v) :: m => decide (lo ≤ k) && v != unlistedByte && memSortedFrom (k + 1) m

/-- The canonical form of memory. -/
def Memory.wf (m : Memory) : Bool := memSortedFrom 0 m

/-- The address is in `RAM` (`00_scope.md` R8). -/
def inRam (p : Config.Params) (a : Nat) : Bool :=
  p.ram.any (fun r => decide (r.lo ≤ a) && decide (a < r.hi))

/-- A buffer of a command: its address and its length in bytes, both mathematical integers
(`49_arithmetic_and_absent_families.md` R223). -/
structure Buffer where
  addr : Nat
  len : Nat
  deriving DecidableEq, Repr

/-- Each of the `n` addresses from `a` on is in `RAM`. -/
def spanInRam (p : Config.Params) (a : Nat) : Nat → Bool
  | 0 => true
  | n + 1 => inRam p a && spanInRam p (a + 1) n

/-- `n` is less than `2^64`: a block count of `2^60` or more makes its buffer inaccessible wherever it is
(`49_arithmetic_and_absent_families.md` R223, row `16 * X[2]`). Every other length is in a register or 16.
DEDUCED (log entry 12), safe. -/
def lengthFits (n : Nat) : Bool := decide (n < Config.addressLimit)

/-- `accessible(addr, n)` (`20_memory.md` R52): `n` is less than `2^64`, `addr + n` is at most `2^64` and
every byte is in `RAM`; a buffer of length 0 is accessible wherever it is (R50). -/
def accessible (s : State) (b : Buffer) : Bool :=
  b.len == 0 || (lengthFits b.len && decide (b.addr + b.len ≤ Config.addressLimit) &&
    spanInRam s.params b.addr b.len)

/-- The bytes of a buffer (`20_memory.md` R50). -/
def readBuffer (s : State) (b : Buffer) : List Byte := memReadBytes s.mem b.addr b.len

/-- The Block a 16-byte buffer holds (`20_memory.md` R54). -/
def readBlock (s : State) (b : Buffer) : Block := blockOfBytes (readBuffer s b)

/-- Store the bytes `bs` from a buffer's address on (`20_memory.md` R51). -/
def writeBuffer (b : Buffer) (bs : List Byte) (s : State) : State :=
  { s with mem := memWriteBytes s.mem b.addr bs }

/-- `X[i]` as the unsigned number a command takes it for (`10_state.md` R21). -/
def xval (s : State) (i : Fin 16) : Nat := (s.x.get i).toNat

/-- `X[i] <- v`: the host's write (`30_encoding.md` R72 (d)). -/
def setX (i : Fin 16) (v : Word64) (s : State) : State := { s with x := s.x.set i v }

/-- Write the whole round-key bank and set `RKV` (`10_state.md` R24, R25). -/
def loadBank (rk : Vector Word32 32) (s : State) : State := { s with rk := rk, rkv := true }

/-- `ERR <- code(e); BKUSED <- used`: how every command ends (`10_state.md` R23). -/
def endCommand (e : ErrorKind) (used : BitVec 4) (s : State) : State :=
  { s with err := errorCode e, bkused := used }

/-- `raise E`: `STATUS.ERR <- code(E)`, `STATUS.BKUSED <- 0` and nothing else; control goes nowhere
(`60_exceptions.md` R262, R263). -/
def raise (e : ErrorKind) (s : State) : State := endCommand e 0 s

/-- The reset event: every register 0, no key; the parameters and `MEM` are not touched
(`70_reset_and_hazards.md` R290, R291), nor is the host's side (log entry 6). -/
def resetEvent (s : State) : State :=
  { s with
    x := Vector.replicate 16 0, rk := Vector.replicate 32 0, rkv := false, err := 0, bkused := 0 }

/-- The host's own store to `MEM` (`30_encoding.md` R70, log entry 5). -/
def hostStore (a : Word64) (b : Byte) (s : State) : State :=
  { s with mem := memWrite s.mem a.toNat b }

/-- Hand a value to the host: the result of `RD` (`30_encoding.md` R70). -/
def returnValue (v : Word64) (s : State) : State := { s with returned := v :: s.returned }

/-- Phases 2 to 4 of a command (`30_encoding.md` R81, `20_memory.md` R52): the outcome of its parameter
checks, the buffers it names, and its body, which computes the next state from the state before. -/
def runCommand (check : ErrorKind) (buffers : List Buffer) (body : State → State) (s : State) :
    Result :=
  if check ≠ .ok then .next (raise check s)
  else if buffers.all (accessible s) then .next (body s)
  else .fault .bufferFault

end Sys2Proof.Machine
end

