-- ==== Sys2Proof/Machine/Operands.lean ====
section
/-! DEFINITION. The operands: the buffers each command names, from the argument registers `10_state.md` R21
assigns (the only addressing mode is register direct, `20_memory.md` R53), and the parameter checks of
phase 2. -/

namespace Sys2Proof.Machine

/-- The buffer at the address in `X[i]`, with a length the command's rule fixes. -/
def fixedBuffer (s : State) (i : Fin 16) (n : Nat) : Buffer := ⟨xval s i, n⟩

/-- The buffer at the address in `X[i]`, whose length in bytes is in `X[j]`. -/
def sizedBuffer (s : State) (i j : Fin 16) : Buffer := ⟨xval s i, xval s j⟩

/-- KEXP: the key at `X0` (`41_key_schedule.md` R121). -/
def kexpKey (s : State) : Buffer := fixedBuffer s 0 16

/-- BLK.*: the input block at `X0` (`42_block_scalar_table.md` R133). -/
def blkSrc (s : State) : Buffer := fixedBuffer s 0 16

/-- BLK.*: the output block at `X1` (`42_block_scalar_table.md` R133). -/
def blkDst (s : State) : Buffer := fixedBuffer s 1 16

/-- BLKS.*: the number of blocks, in `X2` (`45_dispatch.md` R199). -/
def blksCount (s : State) : Nat := xval s 2

/-- BLKS.*: the input blocks at `X0`; `16 * X2` is not reduced (`45_dispatch.md` R199). -/
def blksSrc (s : State) : Buffer := fixedBuffer s 0 (16 * blksCount s)

/-- BLKS.*: the output blocks at `X1` (`45_dispatch.md` R199). -/
def blksDst (s : State) : Buffer := fixedBuffer s 1 (16 * blksCount s)

/-- GFMUL: Block `A` at `X0` (`46_gf128.md` R208). -/
def gfmulA (s : State) : Buffer := fixedBuffer s 0 16

/-- GFMUL: Block `B` at `X1` (`46_gf128.md` R208). -/
def gfmulB (s : State) : Buffer := fixedBuffer s 1 16

/-- GFMUL: the result at `X2` (`46_gf128.md` R208). -/
def gfmulDst (s : State) : Buffer := fixedBuffer s 2 16

/-- GHASH: the subkey `h` at `X0` (`47_ghash.md` R220). -/
def ghashKey (s : State) : Buffer := fixedBuffer s 0 16

/-- GHASH: the AAD at `X1`, length `X2` (`47_ghash.md` R220). -/
def ghashAad (s : State) : Buffer := sizedBuffer s 1 2

/-- GHASH: the data at `X3`, length `X4` (`47_ghash.md` R220). -/
def ghashData (s : State) : Buffer := sizedBuffer s 3 4

/-- GHASH: the result at `X5` (`47_ghash.md` R220). -/
def ghashDst (s : State) : Buffer := fixedBuffer s 5 16

/-- INC32: the input counter block at `X0` (`48_gcm.md` R232). -/
def inc32Src (s : State) : Buffer := fixedBuffer s 0 16

/-- INC32: the output at `X1` (`48_gcm.md` R232). -/
def inc32Dst (s : State) : Buffer := fixedBuffer s 1 16

/-- GCMENC, GCMDEC: the key at `X0` (`48_gcm.md` R236, R240). -/
def gcmKey (s : State) : Buffer := fixedBuffer s 0 16

/-- GCMENC, GCMDEC: the IV at `X2`, length `X3` (`48_gcm.md` R236, R240). -/
def gcmIv (s : State) : Buffer := sizedBuffer s 2 3

/-- GCMENC, GCMDEC: the AAD at `X4`, length `X5` (`48_gcm.md` R236, R240). -/
def gcmAad (s : State) : Buffer := sizedBuffer s 4 5

/-- GCMENC, GCMDEC: the input at `X6`, length `X7` (`48_gcm.md` R236, R240). -/
def gcmInput (s : State) : Buffer := sizedBuffer s 6 7

/-- GCMENC, GCMDEC: the output at `X8`, as long as the input (`48_gcm.md` R236, R240). -/
def gcmOutput (s : State) : Buffer := sizedBuffer s 8 7

/-- GCMENC writes, GCMDEC reads the tag at `X9`, length `X10` (`48_gcm.md` R236, R240). -/
def gcmTag (s : State) : Buffer := sizedBuffer s 9 10

/-- The six buffers whose accessibility GCMENC and GCMDEC check (`48_gcm.md` R236, R240). -/
def gcmBuffers (s : State) : List Buffer :=
  [gcmKey s, gcmIv s, gcmAad s, gcmInput s, gcmOutput s, gcmTag s]

/-- A command with no parameter check (`46_gf128.md` R208, `47_ghash.md` R220, `48_gcm.md` R232). -/
def noCheck : ErrorKind := .ok

/-- KEXP's check: the full 64 bits of `X1` are 16 (`41_key_schedule.md` R121). -/
def kexpCheck (s : State) : ErrorKind :=
  if xval s 1 ≠ 16 then .invalidKeyLength else .ok

/-- The check of every block command: a key is loaded (`60_exceptions.md` R266). -/
def keyedCheck (s : State) : ErrorKind :=
  if s.rkv = false then .noKey else .ok

/-- The checks of GCMENC and GCMDEC, the first failing one deciding (`48_gcm.md` R238). -/
def gcmCheck (s : State) : ErrorKind :=
  if xval s 1 ≠ 16 then .invalidKeyLength
  else if xval s 3 < 8 ∨ xval s 3 > 1024 then .invalidIvLength
  else if xval s 10 < 4 ∨ xval s 10 > 16 then .invalidTagLength
  else .ok

end Sys2Proof.Machine
end

