-- ==== Sys2Proof/Machine/Sm4.lean ====
section
/-! DEFINITION. The SM4 primitives every backend shares (`40_sm4_primitives.md`): the S-box, the linear
transforms, the constants of the key schedule, the packing of Blocks into words, the round and the
network. -/

namespace Sys2Proof.Machine

/-- Four `u32` words: the state of the network (`40_sm4_primitives.md` R109), and the four lanes of a
128-bit vector register (`43_vector_core_a.md` R151). -/
structure Words where
  w0 : Word32
  w1 : Word32
  w2 : Word32
  w3 : Word32
  deriving DecidableEq, Repr

/-- Entry `b` of a table of 256 bytes given as 16 rows of 16: the row is the high nibble of `b`, the
column the low nibble, column 0 the most significant byte of the row. -/
def tableByte (rows : List (BitVec 128)) (b : Byte) : Byte :=
  ((rows.getD (b.toNat / 16) 0) >>> (8 * (15 - b.toNat % 16))).setWidth 8

/-- The rows of `Sbox` (`40_sm4_primitives.md` R100). -/
def sboxRows : List (BitVec 128) :=
  [0xd690e9fecce13db716b614c228fb2c05, 0x2b679a762abe04c3aa44132649860699,
   0x9c4250f491ef987a33540b43edcfac62, 0xe4b31ca9c908e89580df94fa758f3fa6,
   0x4707a7fcf37317ba83593c19e6854fa8, 0x686b81b27164da8bf8eb0f4b70569d35,
   0x1e240e5e6358d1a225227c3b01217887, 0xd40046579fd327524c3602e7a0c4c89e,
   0xeabf8ad240c738b5a3f7f2cef96115a1, 0xe0ae5da49b341a55ad933230f58cb1e3,
   0x1df6e22e8266ca60c02923ab0d534e6f, 0xd5db3745defd8e2f03ff6a726d6c5b51,
   0x8d1baf92bbddbc7f11d95c411f105ad8, 0x0ac13188a5cd7bbd2d74d012b8e5b4b0,
   0x8969974a0c96777e65b9f109c56ec684, 0x18f07dec3adc4d2079ee5f3ed7cb3948]

/-- The substitution box (`40_sm4_primitives.md` R100). -/
def sbox (b : Byte) : Byte := tableByte sboxRows b

/-- Byte `j` of a word, `x[31-8j : 24-8j]`: byte 0 is the most significant (`00_scope.md` R11). -/
def wordByte (x : Word32) (j : Nat) : Byte := (x >>> (24 - 8 * j)).setWidth 8

/-- A function applied to each byte of a word, the bytes keeping their places. -/
def mapBytes (f : Byte → Byte) (x : Word32) : Word32 :=
  f (wordByte x 0) ++ f (wordByte x 1) ++ f (wordByte x 2) ++ f (wordByte x 3)

/-- `tau`, the bytewise substitution (`40_sm4_primitives.md` R101). -/
def tau (x : Word32) : Word32 := mapBytes sbox x

/-- `rotl(x, n)` (`00_scope.md` R13). -/
def rotl (x : Word32) (n : Nat) : Word32 := x.rotateLeft n

/-- `L`, the diffusion step (`40_sm4_primitives.md` R102). -/
def linL (x : Word32) : Word32 := x ^^^ rotl x 2 ^^^ rotl x 10 ^^^ rotl x 18 ^^^ rotl x 24

/-- `Lp`, the key schedule's diffusion (`40_sm4_primitives.md` R103). -/
def linLp (x : Word32) : Word32 := x ^^^ rotl x 13 ^^^ rotl x 23

/-- `T(x) = L(tau(x))` (`40_sm4_primitives.md` R104). -/
def roundT (x : Word32) : Word32 := linL (tau x)

/-- `Tp(x) = Lp(tau(x))` (`40_sm4_primitives.md` R104). -/
def roundTp (x : Word32) : Word32 := linLp (tau x)

/-- `FK` (`40_sm4_primitives.md` R106). -/
def fk : Words := ⟨0xA3B1BAC6, 0x56AA3350, 0x677D9197, 0xB27022DC⟩

/-- Byte `j` of `CK[i]`: `((4*i + j) * 7) mod 256` (`40_sm4_primitives.md` R107). -/
def ckByte (i j : Nat) : Byte := BitVec.ofNat 8 ((4 * i + j) * 7)

/-- `CK[i]` (`40_sm4_primitives.md` R107). -/
def ck (i : Nat) : Word32 := ckByte i 0 ++ ckByte i 1 ++ ckByte i 2 ++ ckByte i 3

/-- `Words(B)` (`40_sm4_primitives.md` R108). -/
def wordsOfBlock (b : Block) : Words :=
  ⟨b.extractLsb' 96 32, b.extractLsb' 64 32, b.extractLsb' 32 32, b.extractLsb' 0 32⟩

/-- `Bytes(W0, W1, W2, W3)` (`40_sm4_primitives.md` R108). -/
def blockOfWords (w : Words) : Block := w.w0 ++ w.w1 ++ w.w2 ++ w.w3

/-- The four words in reverse order (`40_sm4_primitives.md` R110). -/
def revWords (w : Words) : Words := ⟨w.w3, w.w2, w.w1, w.w0⟩

/-- One round with transform `t` and round key `k`: `N = A0 ^ t(A1 ^ A2 ^ A3 ^ k)`, then
`(A1, A2, A3, N)` (`40_sm4_primitives.md` R109). -/
def feistelRound (t : Word32 → Word32) (a : Words) (k : Word32) : Words :=
  ⟨a.w1, a.w2, a.w3, a.w0 ^^^ t (a.w1 ^^^ a.w2 ^^^ a.w3 ^^^ k)⟩

/-- `Crypt(K, B)` with the transform `t` in place of `T`: one round for each key of `K` in order, then
the four final words reversed (`40_sm4_primitives.md` R110). -/
def cryptWith (t : Word32 → Word32) (ks : List Word32) (b : Block) : Block :=
  blockOfWords (revWords (ks.foldl (feistelRound t) (wordsOfBlock b)))

/-- `Crypt(K, B)` (`40_sm4_primitives.md` R110). -/
def crypt (ks : List Word32) (b : Block) : Block := cryptWith roundT ks b

end Sys2Proof.Machine
end

