-- ==== Sys2Proof/Machine/KeySchedule.lean ====
section
/-! DEFINITION. KeySchedule and the command KEXP (`41_key_schedule.md`). -/

namespace Sys2Proof.Machine

/-- The round keys from the key state `(K[i], .., K[i+3])` and the constants from `CK[i]` on:
`K[i+4] = K[i] ^ Tp(K[i+1] ^ K[i+2] ^ K[i+3] ^ CK[i])` and `rk[i] = K[i+4]` (`41_key_schedule.md` R120). -/
def expandKeys : List Word32 → Words → List Word32
  | [], _ => []
  | c :: cs, a => (feistelRound roundTp a c).w3 :: expandKeys cs (feistelRound roundTp a c)

/-- `K[0..3]`: `MKi ^ FK[i]` (`41_key_schedule.md` R120). -/
def keyStart (mk : Block) : Words :=
  ⟨(wordsOfBlock mk).w0 ^^^ fk.w0, (wordsOfBlock mk).w1 ^^^ fk.w1,
   (wordsOfBlock mk).w2 ^^^ fk.w2, (wordsOfBlock mk).w3 ^^^ fk.w3⟩

/-- The 32 round keys of a master key, in order (`41_key_schedule.md` R120). -/
def roundKeys (mk : Block) : List Word32 := expandKeys ((List.range 32).map ck) (keyStart mk)

theorem expandKeys_length (cs : List Word32) (a : Words) : (expandKeys cs a).length = cs.length := by
  induction cs generalizing a with
  | nil => rfl
  | cons c cs ih => simp [expandKeys, ih]

theorem roundKeys_length (mk : Block) : (roundKeys mk).toArray.size = 32 := by
  simp [roundKeys, expandKeys_length]

/-- `KeySchedule(MK)` as a bank (`41_key_schedule.md` R120). -/
def keySchedule (mk : Block) : Vector Word32 32 := ⟨(roundKeys mk).toArray, roundKeys_length mk⟩

/-- KEXP's phase 4 (`41_key_schedule.md` R121). -/
def kexpBody (s : State) : State :=
  endCommand .ok 0 (loadBank (keySchedule (readBlock s (kexpKey s))) s)

/-- KEXP (`41_key_schedule.md` R121). -/
def execKexp (s : State) : Result := runCommand (kexpCheck s) [kexpKey s] kexpBody s

end Sys2Proof.Machine
end

