-- ==== Sys2Proof/Machine/BlockCores.lean ====
section
/-! DEFINITION. ScalarCore, TableCore and the four single-block commands (`42_block_scalar_table.md`). -/

namespace Sys2Proof.Machine

/-- ScalarCore, encrypting (`42_block_scalar_table.md` R131). -/
def scalarEncrypt (rk : List Word32) (b : Block) : Block := crypt rk b

/-- ScalarCore, decrypting: round `i` consumes `RK[31 - i]` (`42_block_scalar_table.md` R132). -/
def scalarDecrypt (rk : List Word32) (b : Block) : Block := crypt rk.reverse b

/-- `TAB[j][b] = L(Sbox[b] << (24 - 8*j))` (`42_block_scalar_table.md` R136; DEDUCED, log entry 9,
safe). -/
def tab (j : Nat) (b : Byte) : Word32 := linL ((sbox b).setWidth 32 <<< (24 - 8 * j))

/-- `T_tab` (`42_block_scalar_table.md` R136). -/
def tabT (x : Word32) : Word32 :=
  tab 0 (wordByte x 0) ^^^ tab 1 (wordByte x 1) ^^^ tab 2 (wordByte x 2) ^^^ tab 3 (wordByte x 3)

/-- TableCore, encrypting (`42_block_scalar_table.md` R138). -/
def tableEncrypt (rk : List Word32) (b : Block) : Block := cryptWith tabT rk b

/-- TableCore, decrypting (`42_block_scalar_table.md` R139). -/
def tableDecrypt (rk : List Word32) (b : Block) : Block := cryptWith tabT rk.reverse b

/-- Phase 4 of a BLK command: the core's function on the bank and the input block, the result stored at
the destination (`42_block_scalar_table.md` R133). -/
def blkBody (core : List Word32 → Block → Block) (unit : Config.Backend) (s : State) : State :=
  endCommand .ok (backendBit unit)
    (writeBuffer (blkDst s) (bytesOfBlock (core s.rk.toList (readBlock s (blkSrc s)))) s)

/-- The frame of the four BLK commands (`42_block_scalar_table.md` R133). -/
def blkCommand (core : List Word32 → Block → Block) (unit : Config.Backend) (s : State) : Result :=
  runCommand (keyedCheck s) [blkSrc s, blkDst s] (blkBody core unit) s

/-- BLK.S.E (`42_block_scalar_table.md` R133). -/
def execBlkSE (s : State) : Result := blkCommand scalarEncrypt .scalarCore s

/-- BLK.S.D (`42_block_scalar_table.md` R134). -/
def execBlkSD (s : State) : Result := blkCommand scalarDecrypt .scalarCore s

/-- BLK.T.E (`42_block_scalar_table.md` R138). -/
def execBlkTE (s : State) : Result := blkCommand tableEncrypt .tableCore s

/-- BLK.T.D (`42_block_scalar_table.md` R139). -/
def execBlkTD (s : State) : Result := blkCommand tableDecrypt .tableCore s

end Sys2Proof.Machine
end

