-- ==== Sys2Proof/Machine/Poly.lean ====
section
/-! DEFINITION. Polynomials over GF(2) as natural numbers, bit `i` the coefficient of `x^i`: the carry-less
product of `46_gf128.md` R201 and the remainder modulo a fixed polynomial. -/

namespace Sys2Proof.Machine

/-- The sum (XOR) of `a << i` over the set bits `i < n` of `b` (`46_gf128.md` R201). -/
def clmulBits (a b : Nat) : Nat → Nat
  | 0 => 0
  | n + 1 => clmulBits a b n ^^^ (bif b.testBit n then a <<< n else 0)

/-- `clmul(a, b)`: the sum of `a << i` over all set bits `i` of `b` (`46_gf128.md` R201). -/
def clmul (a b : Nat) : Nat := clmulBits a b (b.log2 + 1)

/-- Clear the bits `d + n - 1` down to `d` of `p` by adding multiples of `m`, a polynomial of degree
`d`: the remainder of `p` modulo `m` when `p < 2^(d+n)`. -/
def polyMod (m d : Nat) : Nat → Nat → Nat
  | 0, p => p
  | n + 1, p => polyMod m d n (bif p.testBit (d + n) then p ^^^ (m <<< n) else p)

end Sys2Proof.Machine
end

