-- ==== Sys2Proof/Machine/Gf8.lean ====
section
/-! DEFINITION. Bytes as elements of GF(2^8): multiplication modulo a polynomial, matrix-vector products
over GF(2), affine maps, and the inversion both vector units' primitives build in
(`40_sm4_primitives.md` R111, `43_vector_core_a.md` R152, `44_vector_core_b.md` R167). -/

namespace Sys2Proof.Machine

/-- The product of two bytes in GF(2)[x] modulo the polynomial `m` of degree 8
(`40_sm4_primitives.md` R111). -/
def gf8Mul (m : Nat) (a b : Byte) : Byte :=
  BitVec.ofNat 8 (polyMod m 8 7 (clmul a.toNat b.toNat))

/-- `p_S`, the polynomial of the field of this cipher's S-box (`40_sm4_primitives.md` R111). -/
def polyS : Nat := 0x1F5

/-- `p_P`, the polynomial of the primitives' field (`43_vector_core_a.md` R152). -/
def polyP : Nat := 0x11B

/-- The parity of a byte. -/
def parity (x : Byte) : Byte :=
  let y := x ^^^ (x >>> 4)
  let z := y ^^^ (y >>> 2)
  (z ^^^ (z >>> 1)) &&& 1

/-- An 8x8 bit matrix, row 0 first, times a byte: output bit `i` is the parity of `row i & b`
(`40_sm4_primitives.md` R111). -/
def matVec : List Byte → Byte → Byte
  | [], _ => 0
  | r :: rs, b => (matVec rs b <<< 1) ||| parity (r &&& b)

/-- An affine map on bytes: a matrix of eight rows and a constant. -/
structure Affine where
  rows : List Byte
  const : Byte
  deriving DecidableEq, Repr

/-- `M * b ^ c` (`44_vector_core_b.md` R167). -/
def affineApply (m : Affine) (b : Byte) : Byte := matVec m.rows b ^^^ m.const

/-- `M1`, `c1` (`43_vector_core_a.md` R153, `44_vector_core_b.md` R168). -/
def affine1 : Affine := ⟨[0x4C, 0x28, 0x7D, 0xB9, 0x1A, 0x22, 0x50, 0x5D], 0x3E⟩

/-- `M2`, `c2` (`43_vector_core_a.md` R153). -/
def affine2 : Affine := ⟨[0x48, 0x0E, 0x4C, 0x47, 0x65, 0x1D, 0xBA, 0xD3], 0x6C⟩

/-- `M3`, `c3` (`44_vector_core_b.md` R168). -/
def affine3 : Affine := ⟨[0xF3, 0xAB, 0x34, 0xA9, 0x74, 0xA6, 0xB5, 0x89], 0xD3⟩

/-- `A_S`, `C_S` (`40_sm4_primitives.md` R111). -/
def affineS : Affine := ⟨[0xA7, 0x4F, 0x9E, 0x3D, 0x7A, 0xF4, 0xE9, 0xD3], 0xD3⟩

/-- `A_P` and `0x63` (`43_vector_core_a.md` R152). -/
def affineP : Affine := ⟨[0xF1, 0xE3, 0xC7, 0x8F, 0x1F, 0x3E, 0x7C, 0xF8], 0x63⟩

/-- The rows of `Pbox` (`43_vector_core_a.md` R152). -/
def pboxRows : List (BitVec 128) :=
  [0x637c777bf26b6fc53001672bfed7ab76, 0xca82c97dfa5947f0add4a2af9ca472c0,
   0xb7fd9326363ff7cc34a5e5f171d83115, 0x04c723c31896059a071280e2eb27b275,
   0x09832c1a1b6e5aa0523bd6b329e32f84, 0x53d100ed20fcb15b6acbbe394a4c58cf,
   0xd0efaafb434d338545f9027f503c9fa8, 0x51a3408f929d38f5bcb6da2110fff3d2,
   0xcd0c13ec5f974417c4a77e3d645d1973, 0x60814fdc222a908846eeb814de5e0bdb,
   0xe0323a0a4906245cc2d3ac629195e479, 0xe7c8376d8dd54ea96c56f4ea657aae08,
   0xba78252e1ca6b4c6e8dd741f4bbd8b8a, 0x703eb5664803f60e613557b986c11d9e,
   0xe1f8981169d98e949b1e87e9ce5528df, 0x8ca1890dbfe6426841992d0fb054bb16]

/-- The box the primitive of VectorCoreA applies (`43_vector_core_a.md` R152). -/
def pbox (b : Byte) : Byte := tableByte pboxRows b

/-- The values of `Inv_P`, in the layout of the other tables. DEDUCED (log entry 3), safe: the spec
defines the function (`44_vector_core_b.md` R167) and does not tabulate it. -/
def invPRows : List (BitVec 128) :=
  [0x00018df6cb527bd1e84f29c0b0e1e5c7, 0x74b4aa4b992b605f583ffdccff40eeb2,
   0x3a6e5af1554da8c9c10a98153044a2c2, 0x2c45926cf3396642f235206f77bb5919,
   0x1dfe37672d31f569a764ab135425e909, 0xed5c05ca4c2487bf183e22f051ec6117,
   0x165eafd349a63643f44791df3393213b, 0x79b7978510b5ba3cb670d006a1fa8182,
   0x837e7f809673be569b9e95d9f702b9a4, 0xde6a326dd88a84722a149f88f9dc899a,
   0xfb7c2ec38fb8654826c8124acee7d262, 0x0ce01fef11757871a58e763dbdbc8657,
   0x0b282fa3dad4e40fa92753041bfcace6, 0x7a07ae63c5dbe2ea948bc4d59df8906b,
   0xb10dd6ebc60ecfad084ed7e35d501eb3, 0x5b2338346846038cdd9c7da0cd1a411c]

/-- `Inv_P`: the inverse modulo `p_P`, and `Inv_P(0) = 0` (`44_vector_core_b.md` R167). The law
`invP_spec` (`Sys2Proof/Laws/Gf8.lean`) proves that the table is this function at all 256 bytes. -/
def invP (b : Byte) : Byte := tableByte invPRows b

end Sys2Proof.Machine
end

