-- ==== Sys2Proof/Machine/VectorA.lean ====
section
/-! DEFINITION. VectorCoreA (`43_vector_core_a.md`): one Block in a 128-bit register of four 32-bit lanes,
the substitution through the repurposed box of R152. The register is a temporary of one command
(`10_state.md` R26). -/

namespace Sys2Proof.Machine

/-- A word function on each of the four lanes (`43_vector_core_a.md` R156). -/
def mapLanes (f : Word32 → Word32) (v : Words) : Words := ⟨f v.w0, f v.w1, f v.w2, f v.w3⟩

/-- A byte function on each of the sixteen bytes of the register (`43_vector_core_a.md` R151). -/
def mapLaneBytes (f : Byte → Byte) (v : Words) : Words := mapLanes (mapBytes f) v

/-- A word in all four lanes (`43_vector_core_a.md` R155). -/
def broadcast (t : Word32) : Words := ⟨t, t, t, t⟩

/-- `PreA`, `PrimSub`, `PostA` on the register (`43_vector_core_a.md` R152, R153). -/
def subA (v : Words) : Words :=
  mapLaneBytes (affineApply affine2) (mapLaneBytes pbox (mapLaneBytes (affineApply affine1) v))

/-- One round of VectorCoreA (`43_vector_core_a.md` R155). -/
def vecARound (v : Words) (k : Word32) : Words :=
  let t := v.w1 ^^^ v.w2 ^^^ v.w3 ^^^ k
  let u := mapLanes linL (subA (broadcast t))
  ⟨v.w1, v.w2, v.w3, v.w0 ^^^ u.w0⟩

/-- `VecACrypt(K, B)` (`43_vector_core_a.md` R155). -/
def vecACrypt (ks : List Word32) (b : Block) : Block :=
  blockOfWords (revWords (ks.foldl vecARound (wordsOfBlock b)))

end Sys2Proof.Machine
end

