-- ==== Sys2Proof/Machine/VectorB.lean ====
section
/-! DEFINITION. VectorCoreB (`44_vector_core_b.md`): four Blocks in a 512-bit register of four 128-bit
sublanes, the substitution through the field-affine primitive of R167. The register is a temporary of one
command (`10_state.md` R26). -/

namespace Sys2Proof.Machine

/-- The 512-bit register: sublane `g` holds the state of group block `g` (`44_vector_core_b.md` R166). -/
structure Wide where
  sub0 : Words
  sub1 : Words
  sub2 : Words
  sub3 : Words
  deriving DecidableEq, Repr

/-- The same operation in each sublane; nothing crosses a sublane boundary
(`44_vector_core_b.md` R170). -/
def mapSubs (f : Words → Words) (w : Wide) : Wide := ⟨f w.sub0, f w.sub1, f w.sub2, f w.sub3⟩

/-- `GFAffine(M, c, W)` on the 64 bytes (`44_vector_core_b.md` R167). -/
def gfAffine (m : Affine) (w : Wide) : Wide := mapSubs (mapLaneBytes (affineApply m)) w

/-- `GFAffineInv(M, c, W)` on the 64 bytes (`44_vector_core_b.md` R167). -/
def gfAffineInv (m : Affine) (w : Wide) : Wide :=
  mapSubs (mapLaneBytes (fun b => affineApply m (invP b))) w

/-- `SubB(W)` (`44_vector_core_b.md` R168). -/
def subB (w : Wide) : Wide := gfAffineInv affine3 (gfAffine affine1 w)

/-- The word of a sublane that enters the substitution (`44_vector_core_b.md` R169). -/
def roundInput (k : Word32) (v : Words) : Words := broadcast (v.w1 ^^^ v.w2 ^^^ v.w3 ^^^ k)

/-- The cross-lane permute and merge of one sublane (`44_vector_core_b.md` R169). -/
def mergeLane (v u : Words) : Words := ⟨v.w1, v.w2, v.w3, v.w0 ^^^ u.w0⟩

/-- One round of VectorCoreB (`44_vector_core_b.md` R169). -/
def vecBRound (w : Wide) (k : Word32) : Wide :=
  let u := mapSubs (mapLanes linL) (subB (mapSubs (roundInput k) w))
  ⟨mergeLane w.sub0 u.sub0, mergeLane w.sub1 u.sub1, mergeLane w.sub2 u.sub2, mergeLane w.sub3 u.sub3⟩

/-- The four Blocks a register holds, words reversed (`44_vector_core_b.md` R169). -/
def blocksOfWide (w : Wide) : List Block :=
  [blockOfWords (revWords w.sub0), blockOfWords (revWords w.sub1),
   blockOfWords (revWords w.sub2), blockOfWords (revWords w.sub3)]

/-- `VecBCrypt4(K, (B0, B1, B2, B3))` (`44_vector_core_b.md` R169). -/
def vecBCrypt4 (ks : List Word32) (b0 b1 b2 b3 : Block) : List Block :=
  blocksOfWide (ks.foldl vecBRound
    ⟨wordsOfBlock b0, wordsOfBlock b1, wordsOfBlock b2, wordsOfBlock b3⟩)

end Sys2Proof.Machine
end

