-- ==== Sys2Proof/Machine/Backend.lean ====
section
/-! DEFINITION. BackendDispatch and the ten multi-block commands (`45_dispatch.md`). -/

namespace Sys2Proof.Machine

open Config

/-- The backend request of a BLKS command (`45_dispatch.md` R182, `30_encoding.md` R73). -/
inductive Request where
  | auto
  | scalar
  | table
  | vecA
  | vecB
  deriving DecidableEq, Repr

/-- The direction of a BLKS command (`30_encoding.md` R73). -/
inductive Direction where
  | encrypt
  | decrypt
  deriving DecidableEq, Repr

/-- The part of `ORDER = [VB, VA, T, S]` a request starts from (`45_dispatch.md` R182). -/
def orderFrom : Request → List Backend
  | .auto => [.vectorCoreB, .vectorCoreA, .tableCore, .scalarCore]
  | .vecB => [.vectorCoreB, .vectorCoreA, .tableCore, .scalarCore]
  | .vecA => [.vectorCoreA, .tableCore, .scalarCore]
  | .table => [.tableCore, .scalarCore]
  | .scalar => [.scalarCore]

/-- `usable(b, m)` with `m` blocks not yet processed (`45_dispatch.md` R182). -/
def usable (p : Params) (m : Nat) : Backend → Bool
  | .vectorCoreB => p.capVB && decide (4 ≤ m)
  | .vectorCoreA => p.capVA
  | .tableCore => true
  | .scalarCore => true

/-- `select(req, m)`: the first usable backend from the request's place on (`45_dispatch.md` R182). -/
def select (p : Params) (req : Request) (m : Nat) : Backend :=
  ((orderFrom req).find? (usable p m)).getD .scalarCore

/-- The dispatch loop on the Blocks not yet processed, at most as many turns as its first argument
(`45_dispatch.md` R183; DEDUCED, log entry 11, safe): the output Blocks and the backends used. -/
def dispatchLoop (p : Params) (ks : List Word32) (req : Request) :
    Nat → List Block → List Block × BitVec 4
  | 0, _ => ([], 0)
  | _ + 1, [] => ([], 0)
  | turns + 1, b :: bs =>
    match select p req (b :: bs).length, bs with
    | .vectorCoreB, b1 :: b2 :: b3 :: rest =>
      let r := dispatchLoop p ks req turns rest
      (vecBCrypt4 ks b b1 b2 b3 ++ r.1, backendBit .vectorCoreB ||| r.2)
    | .vectorCoreB, _ => ([], 0)  -- never: VB is usable only for four or more blocks
    | .vectorCoreA, rest =>
      let r := dispatchLoop p ks req turns rest
      (vecACrypt ks b :: r.1, backendBit .vectorCoreA ||| r.2)
    | .tableCore, rest =>
      let r := dispatchLoop p ks req turns rest
      (cryptWith tabT ks b :: r.1, backendBit .tableCore ||| r.2)
    | .scalarCore, rest =>
      let r := dispatchLoop p ks req turns rest
      (crypt ks b :: r.1, backendBit .scalarCore ||| r.2)

/-- `Dispatch(K, B, req)` (`45_dispatch.md` R183). -/
def dispatch (p : Params) (ks : List Word32) (req : Request) (bs : List Block) :
    List Block × BitVec 4 :=
  dispatchLoop p ks req bs.length bs

/-- `RK` or `rev(RK)` by direction (`45_dispatch.md` R199). -/
def keysFor (dir : Direction) (rk : List Word32) : List Word32 :=
  match dir with
  | .encrypt => rk
  | .decrypt => rk.reverse

/-- The input Blocks of a BLKS command (`45_dispatch.md` R199). -/
def blksInput (s : State) : List Block := blocksOfBytes (blksCount s) (readBuffer s (blksSrc s))

/-- What the dispatcher makes of a BLKS command's inputs (`45_dispatch.md` R199). -/
def blksOutput (req : Request) (dir : Direction) (s : State) : List Block × BitVec 4 :=
  dispatch s.params (keysFor dir s.rk.toList) req (blksInput s)

/-- Phase 4 of `BLKS(req, dir)` (`45_dispatch.md` R199). -/
def blksBody (req : Request) (dir : Direction) (s : State) : State :=
  endCommand .ok (blksOutput req dir s).2
    (writeBuffer (blksDst s) (bytesOfBlocks (blksOutput req dir s).1) s)

/-- The frame `BLKS(req, dir)` of the ten commands (`45_dispatch.md` R199). -/
def blksCommand (req : Request) (dir : Direction) (s : State) : Result :=
  runCommand (keyedCheck s) [blksSrc s, blksDst s] (blksBody req dir) s

/-- BLKS.AUTO.E (`45_dispatch.md` R187). -/
def execBlksAutoE (s : State) : Result := blksCommand .auto .encrypt s

/-- BLKS.AUTO.D (`45_dispatch.md` R188). -/
def execBlksAutoD (s : State) : Result := blksCommand .auto .decrypt s

/-- BLKS.S.E (`45_dispatch.md` R189). -/
def execBlksSE (s : State) : Result := blksCommand .scalar .encrypt s

/-- BLKS.S.D (`45_dispatch.md` R190). -/
def execBlksSD (s : State) : Result := blksCommand .scalar .decrypt s

/-- BLKS.T.E (`45_dispatch.md` R191). -/
def execBlksTE (s : State) : Result := blksCommand .table .encrypt s

/-- BLKS.T.D (`45_dispatch.md` R192). -/
def execBlksTD (s : State) : Result := blksCommand .table .decrypt s

/-- BLKS.VA.E (`45_dispatch.md` R193). -/
def execBlksVaE (s : State) : Result := blksCommand .vecA .encrypt s

/-- BLKS.VA.D (`45_dispatch.md` R194). -/
def execBlksVaD (s : State) : Result := blksCommand .vecA .decrypt s

/-- BLKS.VB.E (`45_dispatch.md` R195). -/
def execBlksVbE (s : State) : Result := blksCommand .vecB .encrypt s

/-- BLKS.VB.D (`45_dispatch.md` R196). -/
def execBlksVbD (s : State) : Result := blksCommand .vecB .decrypt s

end Sys2Proof.Machine
end

