-- ==== Sys2Proof/Machine/Gf128.lean ====
section
/-! DEFINITION. GF128, the carry-less multiplier with the GCM reduction, and the command GFMUL
(`46_gf128.md`). -/

namespace Sys2Proof.Machine

/-- `Reduce(P)`: two folds of the bits from 128 up against `0x87` (`46_gf128.md` R202). -/
def gfReduce (p : Nat) : Nat :=
  let lo := p % 2 ^ 128
  let hi := p / 2 ^ 128
  let t := clmul hi 0x87
  let lo1 := lo ^^^ (t % 2 ^ 128)
  let hi2 := t / 2 ^ 128
  lo1 ^^^ clmul hi2 0x87

/-- `GfMul(a, b)` on field elements (`46_gf128.md` R203). -/
def gfMul (a b : Elem) : Elem := BitVec.ofNat 128 (gfReduce (clmul a.toNat b.toNat))

/-- The element a Block stands for: the 128 bits of `BE128` reversed, or as they are
(`46_gf128.md` R205, R206). -/
def elemOfBlock (o : Config.BitOrder) (b : Block) : Elem :=
  match o with
  | .reflected => b.reverse
  | .natural => b

/-- The Block that stands for an element (`46_gf128.md` R205, R206). -/
def blockOfElem (o : Config.BitOrder) (e : Elem) : Block :=
  match o with
  | .reflected => e.reverse
  | .natural => e

/-- `GfMulBlk(A, B)` (`46_gf128.md` R205, R206). -/
def gfMulBlk (o : Config.BitOrder) (a b : Block) : Block :=
  blockOfElem o (gfMul (elemOfBlock o a) (elemOfBlock o b))

/-- GFMUL's phase 4 (`46_gf128.md` R208). -/
def gfmulBody (s : State) : State :=
  endCommand .ok 0
    (writeBuffer (gfmulDst s)
      (bytesOfBlock (gfMulBlk s.params.bitOrder (readBlock s (gfmulA s)) (readBlock s (gfmulB s)))) s)

/-- GFMUL (`46_gf128.md` R208). -/
def execGfmul (s : State) : Result :=
  runCommand noCheck [gfmulA s, gfmulB s, gfmulDst s] gfmulBody s

end Sys2Proof.Machine
end

