-- ==== Sys2Proof/Machine/Ghash.lean ====
section
/-! DEFINITION. GHASH, the universal-hash accumulator, and the command GHASH (`47_ghash.md`). The
accumulator `ACC` is a temporary of one command (`10_state.md` R33). -/

namespace Sys2Proof.Machine

/-- `Absorb(ACC, Y)` (`47_ghash.md` R216). -/
def absorb (o : Config.BitOrder) (h acc y : Block) : Block := gfMulBlk o (acc ^^^ y) h

/-- `LenBlock(a, d)`: the bit lengths of AAD and data, each mod `2^64` (`47_ghash.md` R217). -/
def lenBlock (a d : Nat) : Block := BitVec.ofNat 64 (8 * a) ++ BitVec.ofNat 64 (8 * d)

/-- `Ghash(h, aad, data)` (`47_ghash.md` R218). -/
def ghashOf (o : Config.BitOrder) (h : Block) (aad data : List Byte) : Block :=
  absorb o h
    ((paddedBlocks data).foldl (absorb o h) ((paddedBlocks aad).foldl (absorb o h) 0))
    (lenBlock aad.length data.length)

/-- GHASH's phase 4 (`47_ghash.md` R220). -/
def ghashBody (s : State) : State :=
  endCommand .ok 0
    (writeBuffer (ghashDst s)
      (bytesOfBlock (ghashOf s.params.bitOrder (readBlock s (ghashKey s))
        (readBuffer s (ghashAad s)) (readBuffer s (ghashData s)))) s)

/-- GHASH (`47_ghash.md` R220). -/
def execGhash (s : State) : Result :=
  runCommand noCheck [ghashKey s, ghashAad s, ghashData s, ghashDst s] ghashBody s

end Sys2Proof.Machine
end

