-- ==== Sys2Proof/Machine/Gcm.lean ====
section
/-! DEFINITION. GcmEngine and the commands INC32, GCMENC and GCMDEC (`48_gcm.md`). The CipherContext
(`H`, `J0`, `CB`, `ACC`, `ALENB`, `CLENB`) exists only inside a command (`10_state.md` R33): here it is the
arguments of these functions. Every block encryption is `Crypt`, whatever the backend
(`45_dispatch.md` R198; DEDUCED, log entry 8, safe). -/

namespace Sys2Proof.Machine

/-- `Inc32(CB)`: the last 4 bytes plus 1 mod `2^32`, the first 12 untouched (`48_gcm.md` R231). -/
def inc32Of (cb : Block) : Block := cb.extractLsb' 32 96 ++ (cb.extractLsb' 0 32 + 1#32)

/-- INC32's phase 4 (`48_gcm.md` R232). -/
def inc32Body (s : State) : State :=
  endCommand .ok 0
    (writeBuffer (inc32Dst s) (bytesOfBlock (inc32Of (readBlock s (inc32Src s)))) s)

/-- INC32 (`48_gcm.md` R232). -/
def execInc32 (s : State) : Result := runCommand noCheck [inc32Src s, inc32Dst s] inc32Body s

/-- `H = E(RK, 0^128)` (`48_gcm.md` R233). -/
def gcmH (rk : List Word32) : Block := crypt rk 0

/-- `J0` from the IV (`48_gcm.md` R234). -/
def gcmJ0 (o : Config.BitOrder) (h : Block) (iv : List Byte) : Block :=
  if iv.length = 12 then blockOfBytes (iv ++ [0, 0, 0, 1]) else ghashOf o h [] iv

/-- Counter mode over the next `q` blocks of `d`: the counter is incremented before each use, and a final
partial block takes the leading bytes of its keystream block (`48_gcm.md` R235). -/
def ctrBlocks (rk : List Word32) : Nat → Block → List Byte → List Byte
  | 0, _, _ => []
  | q + 1, cb, d =>
    xorBytes (d.take 16) (bytesOfBlock (crypt rk (inc32Of cb)))
      ++ ctrBlocks rk q (inc32Of cb) (d.drop 16)

/-- `Ctr(RK, J0, D)` (`48_gcm.md` R235). -/
def ctr (rk : List Word32) (j0 : Block) (d : List Byte) : List Byte :=
  ctrBlocks rk (ceilDiv16 d.length) j0 d

/-- `FullTag = Ghash(H, aad, C) xor E(RK, J0)` (`48_gcm.md` R237). -/
def fullTag (o : Config.BitOrder) (rk : List Word32) (j0 : Block) (aad c : List Byte) : Block :=
  ghashOf o (gcmH rk) aad c ^^^ crypt rk j0

/-- The leading `n` bytes of `FullTag` (`48_gcm.md` R237). -/
def truncTag (t : Block) (n : Nat) : List Byte := (bytesOfBlock t).take n

/-- The OR over `i < n` of `A[i] xor B[i]` (`48_gcm.md` R239). -/
def tagDiff (a b : List Byte) : Nat → Byte
  | 0 => 0
  | n + 1 => tagDiff a b n ||| (a.getD n 0 ^^^ b.getD n 0)

/-- `TagEqual(A, B, tag_len)` (`48_gcm.md` R239). -/
def tagEqual (a b : List Byte) (n : Nat) : Bool := tagDiff a b n == 0

/-- The round keys of the key a GCM command names (`48_gcm.md` R236, R243). -/
def gcmBank (s : State) : Vector Word32 32 := keySchedule (readBlock s (gcmKey s))

/-- `J0` of a GCM command (`48_gcm.md` R236, R240). -/
def gcmStart (s : State) : Block :=
  gcmJ0 s.params.bitOrder (gcmH (gcmBank s).toList) (readBuffer s (gcmIv s))

/-- The tag of a GCM command for the ciphertext `c`, `X10` bytes (`48_gcm.md` R236, R240). -/
def gcmTagOf (s : State) (c : List Byte) : List Byte :=
  truncTag (fullTag s.params.bitOrder (gcmBank s).toList (gcmStart s) (readBuffer s (gcmAad s)) c)
    (gcmTag s).len

/-- The input of a GCM command through counter mode (`48_gcm.md` R236, R240). -/
def gcmCtr (s : State) : List Byte :=
  ctr (gcmBank s).toList (gcmStart s) (readBuffer s (gcmInput s))

/-- GCMENC's phase 4: the bank, then the ciphertext, then the tag (`48_gcm.md` R236). -/
def gcmencBody (s : State) : State :=
  endCommand .ok 0
    (writeBuffer (gcmTag s) (gcmTagOf s (gcmCtr s))
      (writeBuffer (gcmOutput s) (gcmCtr s) (loadBank (gcmBank s) s)))

/-- GCMENC (`48_gcm.md` R236). -/
def execGcmenc (s : State) : Result := runCommand (gcmCheck s) (gcmBuffers s) gcmencBody s

/-- The supplied tag agrees with the candidate tag over the ciphertext (`48_gcm.md` R239, R240). -/
def gcmVerifies (s : State) : Bool :=
  tagEqual (gcmTagOf s (readBuffer s (gcmInput s))) (readBuffer s (gcmTag s)) (gcmTag s).len

/-- GCMDEC's phase 4: the plaintext only on a match, else `X7` zero bytes and `AuthenticationFailure`
(`48_gcm.md` R240). -/
def gcmdecBody (s : State) : State :=
  if gcmVerifies s then
    endCommand .ok 0 (writeBuffer (gcmOutput s) (gcmCtr s) (loadBank (gcmBank s) s))
  else
    endCommand .authenticationFailure 0
      (writeBuffer (gcmOutput s) (List.replicate (gcmOutput s).len 0) (loadBank (gcmBank s) s))

/-- GCMDEC (`48_gcm.md` R240). -/
def execGcmdec (s : State) : Result := runCommand (gcmCheck s) (gcmBuffers s) gcmdecBody s

end Sys2Proof.Machine
end

