-- ==== Sys2Proof/Machine/Dispatch.lean ====
section
/-! DEFINITION. The commands' meanings, one arm per command of `30_encoding.md` R75. -/

namespace Sys2Proof.Machine

def exec (i : Instr) (s : State) : Host.Outcome State Fault Refusal :=
  match i with
  | .kexp => Sys2Proof.Machine.execKexp s
  | .blkSE => Sys2Proof.Machine.execBlkSE s
  | .blkSD => Sys2Proof.Machine.execBlkSD s
  | .blkTE => Sys2Proof.Machine.execBlkTE s
  | .blkTD => Sys2Proof.Machine.execBlkTD s
  | .blksAutoE => Sys2Proof.Machine.execBlksAutoE s
  | .blksAutoD => Sys2Proof.Machine.execBlksAutoD s
  | .blksSE => Sys2Proof.Machine.execBlksSE s
  | .blksSD => Sys2Proof.Machine.execBlksSD s
  | .blksTE => Sys2Proof.Machine.execBlksTE s
  | .blksTD => Sys2Proof.Machine.execBlksTD s
  | .blksVaE => Sys2Proof.Machine.execBlksVaE s
  | .blksVaD => Sys2Proof.Machine.execBlksVaD s
  | .blksVbE => Sys2Proof.Machine.execBlksVbE s
  | .blksVbD => Sys2Proof.Machine.execBlksVbD s
  | .gfmul => Sys2Proof.Machine.execGfmul s
  | .ghash => Sys2Proof.Machine.execGhash s
  | .inc32 => Sys2Proof.Machine.execInc32 s
  | .gcmenc => Sys2Proof.Machine.execGcmenc s
  | .gcmdec => Sys2Proof.Machine.execGcmdec s

end Sys2Proof.Machine
end

