-- ==== Sys2Proof/Machine/Window.lean ====
section
/-! DEFINITION. The register window (`30_encoding.md` R70 to R72) and the host's events
(log entries 5, 6 and 10). -/

namespace Sys2Proof.Machine

/-- A register of the window (`30_encoding.md` R71). -/
inductive WindowReg where
  | cmd
  | status
  | cap
  | reserved
  | x (i : Fin 16)
  | rkr (i : Fin 32)
  deriving DecidableEq, Repr

/-- The register in the 64-bit slot `k` of the window, the one at byte offset `8 * k`
(`30_encoding.md` R71). -/
def slotReg (k : Nat) : WindowReg :=
  if k = 0 then .cmd
  else if k = 1 then .status
  else if k = 2 then .cap
  else if k < 16 then .reserved
  else if k < 32 then .x (Fin.ofNat 16 (k - 16))
  else .rkr (Fin.ofNat 32 (k - 32))

/-- The register at a byte offset; none where the offset is not a multiple of 8 below 0x200
(`30_encoding.md` R71, R72 (a)). -/
def windowReg (off : Nat) : Option WindowReg :=
  if off % 8 = 0 ∧ off < 0x200 then some (slotReg (off / 8)) else none

/-- The value a read of a window register returns (`30_encoding.md` R71, R72 (c), (e)). -/
def windowRead (s : State) : WindowReg → Word64
  | .cmd => 0
  | .status => statusWord s
  | .cap => capWord s
  | .reserved => 0
  | .x i => s.x.get i
  | .rkr i => rkrWord s i

/-- A write to CMD: the command the word encodes, or ILLEGAL (`30_encoding.md` R77, R81). -/
def commandWrite (w : Word64) (s : State) : Result :=
  match decode w with
  | .ok i => exec i s
  | .error _ => .next (raise .illegalCommand s)

/-- A write to a window register (`30_encoding.md` R71, R72 (b), (d), (f)). -/
def windowWrite (v : Word64) (s : State) : WindowReg → Result
  | .cmd => commandWrite v s
  | .status => .next s
  | .cap => .next s
  | .reserved => .next s
  | .x i => .next (setX i v s)
  | .rkr _ => .next s

/-- `WR off, v` (`30_encoding.md` R70, R72). -/
def transactionWr (off : Nat) (v : Word64) (s : State) : Result :=
  match windowReg off with
  | some r => windowWrite v s r
  | none => .refused (.notATransaction off)

/-- `RD off`: the value goes to the host and nothing else changes (`30_encoding.md` R70, R72). -/
def transactionRd (off : Nat) (s : State) : Result :=
  match windowReg off with
  | some r => .next (returnValue (windowRead s r) s)
  | none => .refused (.notATransaction off)

/-- One event of the host or the platform (`30_encoding.md` R70, `70_reset_and_hazards.md` R290). -/
def hostEvent (e : HostEvent) (s : State) : Result :=
  match e with
  | .wr off v => transactionWr off v s
  | .rd off => transactionRd off s
  | .store a b => .next (hostStore a b s)
  | .reset => .next (resetEvent s)

/-- Take the host's next event; with none, the CORE is idle and nothing changes: it executes nothing on
its own (`70_reset_and_hazards.md` R291, `60_exceptions.md` R279). -/
def nextEvent (s : State) : Result :=
  match s.pending with
  | [] => .next s
  | e :: rest => hostEvent e { s with pending := rest }

end Sys2Proof.Machine
end

