-- ==== Sys2Proof/Machine/Step.lean ====
section
/-! DEFINITION. One step: the host's next event, carried out whole before the next one
(`30_encoding.md` R70, `20_memory.md` R61). -/

namespace Sys2Proof.Machine

/-- One step of the machine. -/
def step (s : State) : Host.Outcome State Fault Refusal := nextEvent s

/-- The state with the command word `w`, every bit above `nbits` zero, as the host's next transaction
`WR CMD, w`: the CORE fetches no instruction from memory (`10_state.md` R22, log entry 4). -/
def State.withFetchWord (s : State) (nbits w : Nat) : State :=
  { s with pending := .wr 0x000 (BitVec.ofNat 64 (w % 2 ^ nbits)) :: s.pending }

end Sys2Proof.Machine
end

