-- ==== Sys2Proof/WellFormed.lean ====
section
/-! DEFINITION. Well-formedness: of a command, of the host's events and of an instance's parameters. -/

namespace Sys2Proof

/-- Every command is well formed: a command word carries no immediate and no register number
(`30_encoding.md` R74), so there is no field to check. -/
def Instr.wf : Instr → Bool
  | .kexp | .blkSE | .blkSD | .blkTE | .blkTD
  | .blksAutoE | .blksAutoD | .blksSE | .blksSD | .blksTE | .blksTD
  | .blksVaE | .blksVaD | .blksVbE | .blksVbD
  | .gfmul | .ghash | .inc32 | .gcmenc | .gcmdec => true

/-- An offset of the register window: a multiple of 8 below 0x200 (`30_encoding.md` R72 (a)). -/
def windowOffsetWf (off : Nat) : Bool := off % 8 == 0 && decide (off < 0x200)

/-- The host's event is one this hardware has (`30_encoding.md` R70, R72 (a)). -/
def hostEventWf : Machine.HostEvent → Bool
  | .wr off _ => windowOffsetWf off
  | .rd off => windowOffsetWf off
  | .store _ _ => true
  | .reset => true

/-- A range of addresses lies in the address space of `MEM` (`10_state.md` R32). -/
def rangeWf (r : Config.Range) : Bool :=
  decide (r.lo ≤ r.hi) && decide (r.hi ≤ Config.addressLimit)

/-- The parameters of an instance: `RAM` is a subset of `[0, 2^ALEN)` (`00_scope.md` R8). -/
def paramsWf (p : Config.Params) : Bool := p.ram.all rangeWf

end Sys2Proof
end

