-- ==== Sys2Proof/Safety.lean ====
section
/-! DEFINITION. The terms claims use: what a command names, requires and writes (`10_state.md` R21, R269's
columns), what a safe step is, and the invariant every step keeps. These are written from the spec's tables,
beside the operand functions of Machine/Operands.lean and not by means of them. -/

namespace Sys2Proof.Safety

open Sys2Proof.Machine

/-- The buffer is shorter than `2^64` bytes (`49_arithmetic_and_absent_families.md` R223), and every byte
of it is below `2^64` and in `RAM` (`20_memory.md` R50, R52). -/
abbrev Reachable (p : Config.Params) (b : Buffer) : Prop :=
  b.len < 2 ^ 64 ∧ ∀ k < b.len, b.addr + k < 2 ^ 64 ∧ ∃ r ∈ p.ram, r.lo ≤ b.addr + k ∧ b.addr + k < r.hi

/-- The address is one of the buffer's. -/
abbrev inBuffer (b : Buffer) (a : Nat) : Prop := b.addr ≤ a ∧ a < b.addr + b.len

/-- No address is in both buffers; an empty one has none. -/
abbrev Apart (b c : Buffer) : Prop := b.len = 0 ∨ c.len = 0 ∨ b.addr + b.len ≤ c.addr ∨ c.addr + c.len ≤ b.addr

/-- The byte at every address outside the buffers reads as before. -/
def SameOutside (bs : List Buffer) (s t : State) : Prop :=
  ∀ a, (∀ b ∈ bs, ¬ inBuffer b a) → memRead t.mem a = memRead s.mem a

/-- The bytes `bs` stand in memory from address `a` on. -/
def HoldsBytes (t : State) (a : Nat) (bs : List Byte) : Prop :=
  ∀ k, (h : k < bs.length) → memRead t.mem (a + k) = bs[k]

/-- What no command ever writes: `X` (`10_state.md` R21), the parameters (`00_scope.md` R9) and the host's
side of the window. -/
def SameHostSide (s t : State) : Prop :=
  t.x = s.x ∧ t.params = s.params ∧ t.pending = s.pending ∧ t.returned = s.returned

/-- The round-key bank and `RKV` are as before. -/
def SameBank (s t : State) : Prop := t.rk = s.rk ∧ t.rkv = s.rkv

/-- The command is one of BLK.* and BLKS.*, the commands that need a key (`60_exceptions.md` R266). -/
def needsKey : Instr → Bool
  | .kexp | .gfmul | .ghash | .inc32 | .gcmenc | .gcmdec => false
  | .blkSE | .blkSD | .blkTE | .blkTD
  | .blksAutoE | .blksAutoD | .blksSE | .blksSD | .blksTE | .blksTD
  | .blksVaE | .blksVaD | .blksVbE | .blksVbD => true

/-- The command writes the bank when it completes (`10_state.md` R24). -/
def writesBank : Instr → Bool
  | .kexp | .gcmenc | .gcmdec => true
  | .gfmul | .ghash | .inc32
  | .blkSE | .blkSD | .blkTE | .blkTD
  | .blksAutoE | .blksAutoD | .blksSE | .blksSD | .blksTE | .blksTD
  | .blksVaE | .blksVaD | .blksVbE | .blksVbD => false

/-- The parameter ranges of GCMENC and GCMDEC (`48_gcm.md` R238). -/
abbrev GcmLengthsOk (s : State) : Prop :=
  xval s 1 = 16 ∧ (8 ≤ xval s 3 ∧ xval s 3 ≤ 1024) ∧ (4 ≤ xval s 10 ∧ xval s 10 ≤ 16)

/-- The checks of phase 2 pass (`60_exceptions.md` R260, column "cause"). -/
def ChecksPass : Instr → State → Prop
  | .kexp, s => xval s 1 = 16
  | .gfmul, _ | .ghash, _ | .inc32, _ => True
  | .gcmenc, s | .gcmdec, s => GcmLengthsOk s
  | .blkSE, s | .blkSD, s | .blkTE, s | .blkTD, s
  | .blksAutoE, s | .blksAutoD, s | .blksSE, s | .blksSD, s | .blksTE, s | .blksTD, s
  | .blksVaE, s | .blksVaD, s | .blksVbE, s | .blksVbD, s => s.rkv = true

/-- The six buffers of a GCM command (`48_gcm.md` R236, R240). -/
def gcmNamed (s : State) : List Buffer :=
  [⟨xval s 0, 16⟩, ⟨xval s 2, xval s 3⟩, ⟨xval s 4, xval s 5⟩, ⟨xval s 6, xval s 7⟩,
   ⟨xval s 8, xval s 7⟩, ⟨xval s 9, xval s 10⟩]

/-- The buffers a command names, from the table of `10_state.md` R21. -/
def namedBuffers : Instr → State → List Buffer
  | .kexp, s => [⟨xval s 0, 16⟩]
  | .gfmul, s => [⟨xval s 0, 16⟩, ⟨xval s 1, 16⟩, ⟨xval s 2, 16⟩]
  | .ghash, s =>
    [⟨xval s 0, 16⟩, ⟨xval s 1, xval s 2⟩, ⟨xval s 3, xval s 4⟩, ⟨xval s 5, 16⟩]
  | .inc32, s => [⟨xval s 0, 16⟩, ⟨xval s 1, 16⟩]
  | .gcmenc, s | .gcmdec, s => gcmNamed s
  | .blkSE, s | .blkSD, s | .blkTE, s | .blkTD, s => [⟨xval s 0, 16⟩, ⟨xval s 1, 16⟩]
  | .blksAutoE, s | .blksAutoD, s | .blksSE, s | .blksSD, s | .blksTE, s | .blksTD, s
  | .blksVaE, s | .blksVaD, s | .blksVbE, s | .blksVbD, s =>
    [⟨xval s 0, 16 * xval s 2⟩, ⟨xval s 1, 16 * xval s 2⟩]

/-- The buffers a command may store to. -/
def outputBuffers : Instr → State → List Buffer
  | .kexp, _ => []
  | .gfmul, s => [⟨xval s 2, 16⟩]
  | .ghash, s => [⟨xval s 5, 16⟩]
  | .inc32, s => [⟨xval s 1, 16⟩]
  | .gcmenc, s => [⟨xval s 8, xval s 7⟩, ⟨xval s 9, xval s 10⟩]
  | .gcmdec, s => [⟨xval s 8, xval s 7⟩]
  | .blkSE, s | .blkSD, s | .blkTE, s | .blkTD, s => [⟨xval s 1, 16⟩]
  | .blksAutoE, s | .blksAutoD, s | .blksSE, s | .blksSD, s | .blksTE, s | .blksTD, s
  | .blksVaE, s | .blksVaD, s | .blksVbE, s | .blksVbD, s => [⟨xval s 1, 16 * xval s 2⟩]

/-- The argument registers a command reads (`10_state.md` R21). -/
def readRegs : Instr → List (Fin 16)
  | .kexp => [0, 1]
  | .gfmul => [0, 1, 2]
  | .ghash => [0, 1, 2, 3, 4, 5]
  | .inc32 => [0, 1]
  | .gcmenc | .gcmdec => [0, 1, 2, 3, 4, 5, 6, 7, 8, 9, 10]
  | .blkSE | .blkSD | .blkTE | .blkTD => [0, 1]
  | .blksAutoE | .blksAutoD | .blksSE | .blksSD | .blksTE | .blksTD
  | .blksVaE | .blksVaD | .blksVbE | .blksVbD => [0, 1, 2]

/-- The `ERR` codes a command can end with (`60_exceptions.md` R269). -/
def errorCodes : Instr → List (BitVec 4)
  | .kexp => [0, 1]
  | .gfmul | .ghash | .inc32 => [0]
  | .gcmenc => [0, 1, 2, 3]
  | .gcmdec => [0, 1, 2, 3, 4]
  | .blkSE | .blkSD | .blkTE | .blkTD
  | .blksAutoE | .blksAutoD | .blksSE | .blksSD | .blksTE | .blksTD
  | .blksVaE | .blksVaD | .blksVbE | .blksVbD => [0, 5]

/-- The command `BLKS(req, dir)` (`45_dispatch.md` R187 to R196). -/
def blksInstr : Request → Direction → Instr
  | .auto, .encrypt => .blksAutoE
  | .auto, .decrypt => .blksAutoD
  | .scalar, .encrypt => .blksSE
  | .scalar, .decrypt => .blksSD
  | .table, .encrypt => .blksTE
  | .table, .decrypt => .blksTD
  | .vecA, .encrypt => .blksVaE
  | .vecA, .decrypt => .blksVaD
  | .vecB, .encrypt => .blksVbE
  | .vecB, .decrypt => .blksVbD

/-- The 20 commands and their CMD values: the table of `30_encoding.md` R75. -/
def commandTable : List (Instr × Word64) :=
  [(.kexp, 0x0001), (.blkSE, 0x0102), (.blkSD, 0x0902), (.blkTE, 0x0202), (.blkTD, 0x0A02),
   (.blksAutoE, 0x0003), (.blksAutoD, 0x0803), (.blksSE, 0x0103), (.blksSD, 0x0903)]
  ++ [(.blksTE, 0x0203), (.blksTD, 0x0A03), (.blksVaE, 0x0303), (.blksVaD, 0x0B03),
      (.blksVbE, 0x0403), (.blksVbD, 0x0C03)]
  ++ [(.gfmul, 0x0004), (.ghash, 0x0005), (.inc32, 0x0006), (.gcmenc, 0x0007), (.gcmdec, 0x0008)]

/-- `BKUSED` after a BLKS command that ends `Ok`, by request, instance and number of blocks: the table
of `45_dispatch.md` R197. -/
def bkusedTable (req : Request) (n : Nat) (va vb : Bool) : BitVec 4 :=
  if n = 0 then 0b0000
  else match req with
    | .scalar => 0b0001
    | .table => 0b0010
    | .vecA => if va then 0b0100 else 0b0010
    | .auto | .vecB =>
      if vb = false ∨ n < 4 then (if va then 0b0100 else 0b0010)
      else if n % 4 = 0 then 0b1000
      else if va then 0b1100 else 0b1010

/-- The Block at an address (`20_memory.md` R54). -/
def blockAt (s : State) (a : Nat) : Block := blockOfBytes (memReadBytes s.mem a 16)

/-- The round keys of the key a GCM command names (`48_gcm.md` R236). -/
def gcmKeys (s : State) : List Word32 := (keySchedule (blockAt s (xval s 0))).toList

/-- `H` of a GCM command (`48_gcm.md` R233). -/
def gcmSubkey (s : State) : Block := crypt (gcmKeys s) 0

/-- `J0` of a GCM command (`48_gcm.md` R234). -/
def gcmCounter0 (s : State) : Block :=
  if xval s 3 = 12 then blockOfBytes (memReadBytes s.mem (xval s 2) 12 ++ [0, 0, 0, 1])
  else ghashOf s.params.bitOrder (gcmSubkey s) [] (memReadBytes s.mem (xval s 2) (xval s 3))

/-- The input bytes of a GCM command (`48_gcm.md` R236, R240). -/
def gcmInputBytes (s : State) : List Byte := memReadBytes s.mem (xval s 6) (xval s 7)

/-- The input of a GCM command through counter mode (`48_gcm.md` R235). -/
def gcmStreamed (s : State) : List Byte := ctr (gcmKeys s) (gcmCounter0 s) (gcmInputBytes s)

/-- The tag over ciphertext `c` that a GCM command computes (`48_gcm.md` R237). -/
def gcmTagOver (s : State) (c : List Byte) : List Byte :=
  (bytesOfBlock (ghashOf s.params.bitOrder (gcmSubkey s) (memReadBytes s.mem (xval s 4) (xval s 5)) c
    ^^^ crypt (gcmKeys s) (gcmCounter0 s))).take (xval s 10)

/-- The bit-serial product of two field elements: the equivalent definition of `46_gf128.md` R203, on the
bits of `b` from bit `i` on. -/
def gfSerialFrom : Nat → Elem → Elem → Nat → Elem → Elem
  | 0, _, _, _, r => r
  | n + 1, a, b, i, r =>
    gfSerialFrom n (if a.getLsbD 127 then (a <<< 1) ^^^ 0x87 else a <<< 1) b (i + 1)
      (if b.getLsbD i then r ^^^ a else r)

/-- The bit-serial product (`46_gf128.md` R203). -/
def gfSerial (a b : Elem) : Elem := gfSerialFrom 128 a b 0 0

/-- `h^n` on Blocks (`46_gf128.md` R207). -/
def blkPow (o : Config.BitOrder) (h : Block) : Nat → Block
  | 0 => blockOfElem o 1
  | n + 1 => gfMulBlk o (blkPow o h n) h

/-- `Y_1*h^m + Y_2*h^(m-1) + ... + Y_m*h` (`47_ghash.md` R219 (d)). -/
def hornerSum (o : Config.BitOrder) (h : Block) : List Block → Block
  | [] => 0
  | y :: ys => gfMulBlk o y (blkPow o h (ys.length + 1)) ^^^ hornerSum o h ys

/-- The outcome with a function applied to the next state, if there is one. -/
def mapNext (f : State → State) : Result → Result
  | .next t => .next (f t)
  | .fault r => .fault r
  | .refused r => .refused r

/-- In state `s`, the host's next transaction `RD off` returns `v` and changes nothing else. -/
def ReadsAs (s : State) (off : Nat) (v : Word64) : Prop :=
  ∀ rest, step { s with pending := .rd off :: rest } =
    .next { s with pending := rest, returned := v :: s.returned }

/-- A step is safe when it has a successor state. -/
def SafeStep (s : State) : Prop := ∃ t, step s = .next t

/-- What every reachable state satisfies, whatever the instance and the memory it starts from. -/
structure Inv (s : State) : Prop where
  /-- Memory is in canonical form. -/
  memory : Memory.wf s.mem = true
  /-- Memory lists no address at or above `2^64` (`10_state.md` R32). -/
  space : ∀ c ∈ s.mem, c.1 < 2 ^ 64
  /-- `RAM` is a subset of the address space (`00_scope.md` R8). -/
  params : paramsWf s.params = true
  /-- `ERR` values 7 to 15 are never produced (`10_state.md` R27). -/
  err : s.err.toNat ≤ 6
  /-- While `RKV = 1` the bank is exactly the key schedule of one key (`10_state.md` R24, R25). -/
  loaded : s.rkv = true → ∃ mk : Block, s.rk = keySchedule mk
  /-- While `RKV = 0` the bank still holds its reset value (`10_state.md` R24). -/
  empty : s.rkv = false → s.rk = Vector.replicate 32 0
  /-- `BKUSED` is not zero only after a block command that ended `Ok`, which had a key
  (`10_state.md` R27). -/
  used : s.bkused ≠ 0 → s.err = 0 ∧ s.rkv = true
  /-- `BKUSED` is one of the values of `45_dispatch.md` R197. -/
  usedValue : s.bkused ∈ ([0b0000, 0b0001, 0b0010, 0b0100, 0b1000, 0b1010, 0b1100] : List (BitVec 4))

end Sys2Proof.Safety
end

