-- ==== Sys2Proof/Certificates/Slice0/Obligations.lean ====
section
/-! DEFINITION. The statements for the provers, from the spec's numbered rules. -/

open Sys2Proof Sys2Proof.Machine Sys2Proof.Safety

/-! ## Encoding -/

/-- `30_encoding.md` R75, R76: a value decodes to a command exactly when the table pairs them, the table
has 20 different words and every command, and decoding undoes the encoder. -/
def Obligations.CommandWordsDecodeExactly : Prop :=
  (∀ (w : Word64) (i : Instr), decode w = .ok i ↔ (i, w) ∈ commandTable) ∧
  commandTable.length = 20 ∧ (commandTable.map Prod.snd).Nodup ∧
  ∀ i : Instr, decode (encode i) = .ok i ∧ (i, encode i) ∈ commandTable

/-- `30_encoding.md` R75: the words of the table, one of each family and direction. -/
def Obligations.TableWordsDecode : Prop :=
  decode 0x0001 = .ok .kexp ∧ decode 0x0102 = .ok .blkSE ∧ decode 0x0A02 = .ok .blkTD ∧
  decode 0x0003 = .ok .blksAutoE ∧ decode 0x0903 = .ok .blksSD ∧ decode 0x0203 = .ok .blksTE ∧
  decode 0x0B03 = .ok .blksVaD ∧ decode 0x0403 = .ok .blksVbE ∧ decode 0x0004 = .ok .gfmul ∧
  decode 0x0005 = .ok .ghash ∧ decode 0x0006 = .ok .inc32 ∧ decode 0x0007 = .ok .gcmenc ∧
  decode 0x0008 = .ok .gcmdec

/-- `30_encoding.md` R77: what is a reserved encoding, and that writing one to CMD sets `ERR` to 6 and
`BKUSED` to 0 and changes nothing else; every other word is a command. -/
def Obligations.ReservedEncodingsRaiseIllegalCommand : Prop :=
  ∀ w : Word64, ∀ opc bk dir : Nat,
    opc = w.toNat % 256 → bk = w.toNat / 256 % 8 → dir = w.toNat / 2048 % 2 →
    let reserved := 2 ^ 12 ≤ w.toNat ∨ opc = 0 ∨ 9 ≤ opc ∨ 5 ≤ bk ∨
      (opc = 2 ∧ (bk = 0 ∨ bk = 3 ∨ bk = 4)) ∨ (opc ≠ 2 ∧ opc ≠ 3 ∧ (bk ≠ 0 ∨ dir ≠ 0))
    (reserved → ∀ (s : State) (rest : List HostEvent), s.pending = .wr 0x000 w :: rest →
      step s = .next { s with pending := rest, err := 6, bkused := 0 }) ∧
    (¬ reserved → ∃ i, decode w = .ok i)

/-! ## The step and the register window -/

/-- `30_encoding.md` R70, R81: where the host's next transaction writes to CMD a word that decodes to a
command, the step is that command on the state with the transaction taken off the queue; and the state
`withFetchWord` builds (the model's own, log entry 4) runs exactly the command it names. -/
def Obligations.StepRunsDecodedCommand : Prop :=
  (∀ (s : State) (w : Word64) (rest : List HostEvent) (i : Instr),
    s.pending = .wr 0x000 w :: rest → decode w = .ok i →
      step s = exec i { s with pending := rest }) ∧
  ∀ (s : State) (i : Instr), step (s.withFetchWord 64 (encode i).toNat) = exec i s

/-- `70_reset_and_hazards.md` section 1: the CORE executes nothing on its own. -/
def Obligations.IdleStepKeepsState : Prop :=
  ∀ s : State, s.pending = [] → step s = .next s

/-- `30_encoding.md` R71, R72 and `10_state.md` R30: what every read of the window returns, what every
write but one to CMD does, and that any other offset is refused. `pending` and `returned` are the model's
form of the host's side (log entry 5). -/
def Obligations.WindowTransactions : Prop :=
  ∀ s : State,
    ReadsAs s 0x000 0 ∧
    ReadsAs s 0x008
      (BitVec.ofNat 64 (s.err.toNat + 2 ^ 8 * s.bkused.toNat + 2 ^ 16 * s.rkv.toNat)) ∧
    ReadsAs s 0x010 (BitVec.ofNat 64 (s.params.capVA.toNat + 2 * s.params.capVB.toNat)) ∧
    (∀ k, 3 ≤ k → k < 16 → ReadsAs s (8 * k) 0) ∧
    (∀ i : Fin 16, ReadsAs s (0x080 + 8 * i) (s.x.get i)) ∧
    (∀ i : Fin 32, ReadsAs s (0x100 + 8 * i)
      (if s.rkv then BitVec.ofNat 64 (s.rk.get i).toNat else 0)) ∧
    (∀ (rest : List HostEvent) (v : Word64),
      (∀ k, (1 ≤ k ∧ k < 16 ∨ 32 ≤ k ∧ k < 64) →
        step { s with pending := .wr (8 * k) v :: rest } = .next { s with pending := rest }) ∧
      (∀ i : Fin 16, ∃ t, step { s with pending := .wr (0x080 + 8 * i) v :: rest } = .next t ∧
        (∀ j : Fin 16, t.x.get j = if j = i then v else s.x.get j) ∧
        t = { s with pending := rest, x := t.x }) ∧
      (∀ off, (off % 8 ≠ 0 ∨ 0x200 ≤ off) →
        step { s with pending := .wr off v :: rest } = .refused (.notATransaction off) ∧
        step { s with pending := .rd off :: rest } = .refused (.notATransaction off)))

/-- `70_reset_and_hazards.md` R290, R291: the state after reset, from any state and at power-up, and what
the window reads there. That the host's side (`pending`, `returned`) survives the event is the model's own
choice (log entry 6). -/
def Obligations.ResetClearsRegisters : Prop :=
  (∀ (s : State) (rest : List HostEvent), s.pending = .reset :: rest → ∃ t, step s = .next t ∧
    (∀ i, t.x.get i = 0) ∧ (∀ i, t.rk.get i = 0) ∧ t.rkv = false ∧ t.err = 0 ∧ t.bkused = 0 ∧
    t.mem = s.mem ∧ t.params = s.params ∧ t.pending = rest ∧ t.returned = s.returned ∧
    ReadsAs t 0x000 0 ∧ ReadsAs t 0x008 0 ∧ (∀ i : Fin 32, ReadsAs t (0x100 + 8 * i) 0) ∧
    ReadsAs t 0x010 (BitVec.ofNat 64 (s.params.capVA.toNat + 2 * s.params.capVB.toNat))) ∧
  (∀ i, State.reset.x.get i = 0) ∧ (∀ i, State.reset.rk.get i = 0) ∧ State.reset.rkv = false ∧
  State.reset.err = 0 ∧ State.reset.bkused = 0

/-- The invariant holds right after reset. -/
def Obligations.ResetMeetsInvariant : Prop := Inv State.reset

/-- Every step keeps the invariant: memory canonical and inside the address space, `ERR` at most 6, the
bank zero or the key schedule of one key as `RKV` says, `BKUSED` one of the values of R197 and zero unless
the last command was a block command that ended `Ok`. -/
def Obligations.StepKeepsInvariant : Prop :=
  ∀ s t : State, Inv s → step s = .next t → Inv t

/-- `00_scope.md` R9: the parameters are constant from reset to reset, and over a reset too
(`10_state.md` R29). -/
def Obligations.StepKeepsParameters : Prop :=
  ∀ s t : State, step s = .next t → t.params = s.params

/-- `70_reset_and_hazards.md` R292 (3): a buffer outside `RAM` (or of `2^60` blocks or more, log entry 12)
is the only obligation whose breach by a command leaves no successor state; beside it only a transaction with an offset outside the window stops. -/
def Obligations.OnlyBufferBreachStops : Prop :=
  ∀ s : State,
    (∀ f, step s = .fault f ↔ f = .bufferFault ∧ ∃ w rest i, s.pending = .wr 0x000 w :: rest ∧
      decode w = .ok i ∧ ChecksPass i { s with pending := rest } ∧
      ¬ ∀ b ∈ namedBuffers i s, Reachable s.params b) ∧
    (∀ r, step s = .refused r ↔ ∃ off rest, r = .notATransaction off ∧
      (s.pending = .rd off :: rest ∨ ∃ v, s.pending = .wr off v :: rest) ∧
      ¬ (off % 8 = 0 ∧ off < 0x200))

/-! ## Every command -/

/-- `60_exceptions.md` R265: a command whose checks pass and whose buffers are accessible has a next
state; with a buffer that is not, it faults; with a check that fails it reports a code and never faults. That
a buffer of `2^60` blocks or more is never accessible is log entry 12 (DEDUCED). -/
def Obligations.CommandsAnswerByPhase : Prop :=
  ∀ (i : Instr) (s : State),
    (ChecksPass i s → (∀ b ∈ namedBuffers i s, Reachable s.params b) →
      ∃ t, exec i s = .next t ∧ (t.err = 0 ∨ t.err = 4)) ∧
    (ChecksPass i s → (¬ ∀ b ∈ namedBuffers i s, Reachable s.params b) →
      exec i s = .fault .bufferFault) ∧
    (¬ ChecksPass i s → ∃ e ∈ ([1, 2, 3, 5] : List (BitVec 4)),
      exec i s = .next { s with err := e, bkused := 0 })

/-- `60_exceptions.md` section 3: no command ends with a code outside its row of the table. -/
def Obligations.ErrorCodesByCommand : Prop :=
  ∀ (i : Instr) (s t : State), exec i s = .next t → t.err ∈ errorCodes i

/-- `60_exceptions.md` R263: codes 1, 2, 3 and 5 change nothing but `ERR` and `BKUSED`;
`AuthenticationFailure` is GCMDEC's alone, and leaves `X7` zero bytes in the output buffer and the key
schedule of the command's key in the bank. Code 6 comes from a reserved encoding. No byte of memory was
read: with any other memory the outcome is the same. -/
def Obligations.ErrorsChangeNothingElse : Prop :=
  (∀ (s : State) (w : Word64) (rest : List HostEvent), s.pending = .wr 0x000 w :: rest →
    (∀ i, decode w ≠ .ok i) → step s = .next { s with pending := rest, err := 6, bkused := 0 }) ∧
  ∀ (i : Instr) (s t : State), exec i s = .next t →
    (t.err ≠ 0 → t.err ≠ 4 → t = { s with err := t.err, bkused := 0 } ∧
      ∀ m : Memory, exec i { s with mem := m } = .next { t with mem := m }) ∧
    (t.err = 4 → Memory.wf s.mem = true → i = .gcmdec ∧
      (∀ k < xval s 7, memRead t.mem (xval s 8 + k) = 0) ∧
      t.rk = keySchedule (blockAt s (xval s 0)) ∧ t.rkv = true)

/-- `10_state.md` R21, `20_memory.md` R51: a command that has a next state leaves `X`, the parameters and
the host's side as they were; the bank and `RKV` too unless it is KEXP, GCMENC or GCMDEC; and every byte of
memory outside the output buffers, which are at the addresses `outputBuffers` reads from `X`. -/
def Obligations.CommandFrame : Prop :=
  ∀ (i : Instr) (s t : State), exec i s = .next t →
    SameHostSide s t ∧ (writesBank i = false → SameBank s t) ∧
    SameOutside (outputBuffers i s) s t

/-- `10_state.md` section 2, the table of R21: a command reads the argument registers its rule names and no
other. -/
def Obligations.CommandsReadOnlyNamedRegisters : Prop :=
  ∀ (i : Instr) (s : State) (x : Vector Word64 16),
    (∀ r ∈ readRegs i, x.get r = s.x.get r) →
    exec i { s with x := x } = mapNext (fun t => { t with x := x }) (exec i s)

/-- `10_state.md` R23: every command writes `ERR` and `BKUSED`, one that is not a block command writes 0 to
`BKUSED`; only KEXP, GCMENC and GCMDEC write `RKV`; no command reads `ERR` or `BKUSED`; the block commands read
`RKV`. -/
def Obligations.FlagsWrittenNotRead : Prop :=
  ∀ (i : Instr) (s t : State), exec i s = .next t →
    (needsKey i = false → t.bkused = 0) ∧ (writesBank i = false → t.rkv = s.rkv) ∧
    (∀ (e u : BitVec 4), exec i { s with err := e, bkused := u } = .next t) ∧
    (needsKey i = true → (t.err = 5 ↔ s.rkv = false))

/-- `46_gf128.md` R208, `47_ghash.md` R220, `48_gcm.md` R232, R236, R240: a command that needs no key does
not depend on the bank it finds. -/
def Obligations.KeylessCommandsIgnoreBank : Prop :=
  ∀ (i : Instr) (s t : State) (rk : Vector Word32 32) (v : Bool), needsKey i = false →
    exec i s = .next t → t.err = 0 →
    exec i { s with rk := rk, rkv := v } =
      .next (if writesBank i then t else { t with rk := rk, rkv := v })

/-- `10_state.md` R24: after any command the bank is unchanged or exactly the key schedule of one key. -/
def Obligations.BankUnchangedOrSchedule : Prop :=
  ∀ (i : Instr) (s t : State), exec i s = .next t →
    SameBank s t ∨ (writesBank i = true ∧ t.rkv = true ∧ t.rk = keySchedule (blockAt s (xval s 0)))

/-- `60_exceptions.md` R266: BLK.* and BLKS.* with `RKV = 0` end with code 5 and do nothing else, whatever
their operands; KEXP, GCMENC and GCMDEC set `RKV` where they get past phase 3; it stays 1 until reset, and
`NoKey` cannot occur while it is 1. -/
def Obligations.MissingKeyRaisesNoKey : Prop :=
  (∀ (i : Instr) (s : State), needsKey i = true → s.rkv = false →
    exec i s = .next { s with err := 5, bkused := 0 }) ∧
  (∀ s t : State, s.rkv = true → step s = .next t → s.pending.head? ≠ some .reset → t.rkv = true) ∧
  (∀ (i : Instr) (s t : State), s.rkv = true → exec i s = .next t → t.err ≠ 5) ∧
  ∀ (i : Instr) (s t : State), writesBank i = true → exec i s = .next t → t.err = 0 ∨ t.err = 4 →
    t.rkv = true

/-- `45_dispatch.md` section 1: no byte of memory, no register of the bank and no error code depends on the
capability flags. -/
def Obligations.CapabilitiesChangeOnlyBkused : Prop :=
  ∀ (i : Instr) (s : State) (va vb : Bool),
    let p := { s.params with capVA := va, capVB := vb }
    (∀ t, exec i s = .next t → ∃ u : BitVec 4,
      exec i { s with params := p } = .next { t with params := p, bkused := u }) ∧
    (∀ f, exec i s = .fault f → exec i { s with params := p } = .fault f)

/-! ## Memory -/

/-- `20_memory.md` section 1: in a memory in canonical form a buffer holds what was last written to it,
every other byte reads as before, the form is kept, and a write of nothing changes nothing. -/
def Obligations.MemoryReadsWhatWasWritten : Prop :=
  ∀ (m : Memory) (a : Nat) (bs : List Byte), Memory.wf m = true →
    memReadBytes (memWriteBytes m a bs) a bs.length = bs ∧
    (∀ a', (a' < a ∨ a + bs.length ≤ a') → memRead (memWriteBytes m a bs) a' = memRead m a') ∧
    Memory.wf (memWriteBytes m a bs) = true ∧ memWriteBytes m a [] = m

/-! ## Key schedule and block cipher -/

/-- `41_key_schedule.md` R121: KEXP's three outcomes. -/
def Obligations.KexpLoadsKeySchedule : Prop :=
  decode 0x0001 = .ok .kexp ∧ ∀ s : State,
    (xval s 1 ≠ 16 → exec .kexp s = .next { s with err := 1, bkused := 0 }) ∧
    (xval s 1 = 16 → Reachable s.params ⟨xval s 0, 16⟩ → exec .kexp s =
      .next { s with rk := keySchedule (blockAt s (xval s 0)), rkv := true, err := 0, bkused := 0 }) ∧
    (xval s 1 = 16 → ¬ Reachable s.params ⟨xval s 0, 16⟩ → exec .kexp s = .fault .bufferFault)

/-- `41_key_schedule.md` R120: the round keys satisfy the standard's recurrence from the key's words. -/
def Obligations.KeyScheduleRecurrence : Prop :=
  ∀ mk : Block, ∃ K : Nat → Word32,
    K 0 = (wordsOfBlock mk).w0 ^^^ 0xA3B1BAC6 ∧ K 1 = (wordsOfBlock mk).w1 ^^^ 0x56AA3350 ∧
    K 2 = (wordsOfBlock mk).w2 ^^^ 0x677D9197 ∧ K 3 = (wordsOfBlock mk).w3 ^^^ 0xB27022DC ∧
    (∀ i < 32, K (i + 4) = K i ^^^ roundTp (K (i + 1) ^^^ K (i + 2) ^^^ K (i + 3) ^^^ ck i)) ∧
    ∀ i : Fin 32, (keySchedule mk).get i = K (i + 4)

/-- `40_sm4_primitives.md` section 5: `Crypt` is the recurrence over 36 words and the reversal of the last
four. -/
def Obligations.NetworkRecurrence : Prop :=
  ∀ (ks : Vector Word32 32) (b : Block), ∃ X : Nat → Word32,
    X 0 = (wordsOfBlock b).w0 ∧ X 1 = (wordsOfBlock b).w1 ∧
    X 2 = (wordsOfBlock b).w2 ∧ X 3 = (wordsOfBlock b).w3 ∧
    (∀ i : Fin 32, X (i + 4) =
      X i ^^^ roundT (X (i + 1) ^^^ X (i + 2) ^^^ X (i + 3) ^^^ ks.get i)) ∧
    crypt ks.toList b = blockOfWords ⟨X 35, X 34, X 33, X 32⟩

/-- `42_block_scalar_table.md` R132: decryption undoes encryption and encryption decryption, for every
sequence of round keys. -/
def Obligations.ScalarRoundTrip : Prop :=
  ∀ (rk : List Word32) (b : Block), scalarDecrypt rk b = crypt rk.reverse b ∧
    scalarDecrypt rk (scalarEncrypt rk b) = b ∧ scalarEncrypt rk (scalarDecrypt rk b) = b

/-- `95_test_vectors.md` S1: the known-answer vector, on every backend. -/
def Obligations.KnownAnswerOnEveryBackend : Prop :=
  let k : Block := 0x0123456789abcdeffedcba9876543210
  let c : Block := 0x681edf34d206965e86b3e94f536e4246
  scalarEncrypt (roundKeys k) k = c ∧ tableEncrypt (roundKeys k) k = c ∧
  vecACrypt (roundKeys k) k = c ∧ vecBCrypt4 (roundKeys k) k k k k = [c, c, c, c]

/-- `40_sm4_primitives.md` section 6: the S-box is an affine map, the inversion of its field and the same
affine map again. -/
def Obligations.SboxAlgebraicForm : Prop :=
  ∀ b y : Byte,
    (affineApply affineS b = 0 ∧ y = 0 ∨ gf8Mul polyS (affineApply affineS b) y = 1) →
    sbox b = affineApply affineS y

/-- `40_sm4_primitives.md` section 2: `L` is linear and commutes with rotation, a byte of `tau` depends on
that byte only, and `T` is the sum over the four bytes that TableCore uses; `tau` does not distribute over
OR. -/
def Obligations.DiffusionLaws : Prop :=
  (∀ a b : Word32, linL (a ^^^ b) = linL a ^^^ linL b) ∧ linL 0 = 0 ∧
  (∀ (x : Word32) (k : Nat), linL (rotl x k) = rotl (linL x) k) ∧
  (∀ (x y : Word32) (j : Nat), j < 4 → wordByte x j = wordByte y j →
    wordByte (tau x) j = wordByte (tau y) j) ∧
  (∀ x : Word32, roundT x =
    linL ((sbox (wordByte x 0)).setWidth 32 <<< 24) ^^^ linL ((sbox (wordByte x 1)).setWidth 32 <<< 16) ^^^
    linL ((sbox (wordByte x 2)).setWidth 32 <<< 8) ^^^ linL ((sbox (wordByte x 3)).setWidth 32)) ∧
  ∃ a b : Word32, tau (a ||| b) ≠ tau a ||| tau b

/-- `42_block_scalar_table.md` R133, R134, R138, R139: each BLK command stores the network's output on its
input block at its destination, sets its backend's bit and changes nothing else; its NoKey and fault. -/
def Obligations.BlkTransformsOneBlock : Prop :=
  ∀ (s : State) (w : Word64) (i : Instr) (ks : List Word32) (used : BitVec 4),
    (w, i, ks, used) ∈ [((0x0102 : Word64), Instr.blkSE, s.rk.toList, (1 : BitVec 4)),
      (0x0902, .blkSD, s.rk.toList.reverse, 1), (0x0202, .blkTE, s.rk.toList, 2),
      (0x0A02, .blkTD, s.rk.toList.reverse, 2)] →
    decode w = .ok i ∧
    (s.rkv = false → exec i s = .next { s with err := 5, bkused := 0 }) ∧
    (s.rkv = true →
      ¬ (Reachable s.params ⟨xval s 0, 16⟩ ∧ Reachable s.params ⟨xval s 1, 16⟩) →
      exec i s = .fault .bufferFault) ∧
    (s.rkv = true → Reachable s.params ⟨xval s 0, 16⟩ → Reachable s.params ⟨xval s 1, 16⟩ →
      Memory.wf s.mem = true → ∃ t, exec i s = .next t ∧
      HoldsBytes t (xval s 1) (bytesOfBlock (crypt ks (blockAt s (xval s 0)))) ∧
      SameOutside [⟨xval s 1, 16⟩] s t ∧ SameHostSide s t ∧ SameBank s t ∧
      t.err = 0 ∧ t.bkused = used)

/-- `42_block_scalar_table.md` section 2: TableCore is ScalarCore. -/
def Obligations.TableCoreEqualsScalarCore : Prop :=
  ∀ (rk : List Word32) (b : Block),
    tableEncrypt rk b = scalarEncrypt rk b ∧ tableDecrypt rk b = scalarDecrypt rk b

/-- `43_vector_core_a.md` R150: "Must byte-match ScalarCore". -/
def Obligations.VectorCoreAEqualsNetwork : Prop :=
  ∀ (ks : List Word32) (b : Block), vecACrypt ks b = crypt ks b

/-- `44_vector_core_b.md` R165: "Must match ScalarCore bit-for-bit", in every place of the group. -/
def Obligations.VectorCoreBEqualsNetwork : Prop :=
  ∀ (ks : List Word32) (b0 b1 b2 b3 : Block),
    vecBCrypt4 ks b0 b1 b2 b3 = [crypt ks b0, crypt ks b1, crypt ks b2, crypt ks b3]

/-! ## Multi-block commands -/

/-- `45_dispatch.md` section 1: whatever the request and the instance, the dispatcher's output is the
network on each block, and the backends used are those of the table. -/
def Obligations.DispatchIsTheNetwork : Prop :=
  ∀ (p : Config.Params) (ks : List Word32) (req : Request) (bs : List Block),
    (dispatch p ks req bs).1 = bs.map (crypt ks) ∧
    (dispatch p ks req bs).2 = bkusedTable req bs.length p.capVA p.capVB

/-- `45_dispatch.md` R199 and R187 to R196: each of the ten BLKS commands, for every number of blocks. The
output as the network and `BKUSED` by the table are R186 and R197, which the spec derives; that `2^60` blocks
or more are never accessible is log entry 12 (DEDUCED). -/
def Obligations.BlksTransformsBlocks : Prop :=
  (∀ c ∈ ([(.auto, .encrypt, 0x0003), (.auto, .decrypt, 0x0803), (.scalar, .encrypt, 0x0103),
      (.scalar, .decrypt, 0x0903), (.table, .encrypt, 0x0203), (.table, .decrypt, 0x0A03),
      (.vecA, .encrypt, 0x0303), (.vecA, .decrypt, 0x0B03), (.vecB, .encrypt, 0x0403),
      (.vecB, .decrypt, 0x0C03)] : List (Request × Direction × Word64)),
    decode c.2.2 = .ok (blksInstr c.1 c.2.1)) ∧
  ∀ (s : State) (req : Request) (dir : Direction),
    let i := blksInstr req dir
    let src : Buffer := ⟨xval s 0, 16 * xval s 2⟩
    let dst : Buffer := ⟨xval s 1, 16 * xval s 2⟩
    let ks := if dir = .encrypt then s.rk.toList else s.rk.toList.reverse
    (s.rkv = false → exec i s = .next { s with err := 5, bkused := 0 }) ∧
    (s.rkv = true → ¬ (Reachable s.params src ∧ Reachable s.params dst) →
      exec i s = .fault .bufferFault) ∧
    (s.rkv = true → Reachable s.params src → Reachable s.params dst → Memory.wf s.mem = true →
      ∃ t, exec i s = .next t ∧
      (∀ k < xval s 2, HoldsBytes t (xval s 1 + 16 * k)
        (bytesOfBlock (crypt ks (blockAt s (xval s 0 + 16 * k))))) ∧
      SameOutside [dst] s t ∧ SameHostSide s t ∧ SameBank s t ∧ t.err = 0 ∧
      t.bkused = bkusedTable req (xval s 2) s.params.capVA s.params.capVB)

/-- `49_arithmetic_and_absent_families.md` section 1: `16 * X[2]` is not reduced, and a count of `2^60` or
more makes the buffers inaccessible, whatever the addresses and `RAM` (DEDUCED, log entry 12). -/
def Obligations.WideBlockCountFaults : Prop :=
  ∀ (s : State) (req : Request) (dir : Direction), s.rkv = true → 2 ^ 60 ≤ xval s 2 →
    exec (blksInstr req dir) s = .fault .bufferFault

/-! ## GF(2^128) -/

/-- `46_gf128.md` R201: the product's bits, its bound, and that it is commutative and distributes over
XOR. -/
def Obligations.CarrylessProduct : Prop :=
  (∀ a b k : Nat, (clmul a b).testBit k =
    (List.range (k + 1)).foldl (fun acc i => acc ^^ (a.testBit i && b.testBit (k - i))) false) ∧
  (∀ a b : Nat, a < 2 ^ 128 → b < 2 ^ 128 → clmul a b < 2 ^ 255) ∧
  (∀ a b : Nat, clmul a b = clmul b a) ∧
  (∀ a b c : Nat, clmul a (b ^^^ c) = clmul a b ^^^ clmul a c) ∧
  (∀ a b c : Nat, clmul (a ^^^ b) c = clmul a c ^^^ clmul b c)

/-- `46_gf128.md` R202: two folds leave the remainder modulo `g`. -/
def Obligations.ReduceIsRemainder : Prop :=
  ∀ p : Nat, p < 2 ^ 255 →
    gfReduce p < 2 ^ 128 ∧ ∃ q : Nat, p = clmul q (2 ^ 128 + 0x87) ^^^ gfReduce p

/-- `46_gf128.md` R203: the product is the bit-serial one. -/
def Obligations.GfMulIsBitSerial : Prop :=
  ∀ a b : Elem, gfMul a b = gfSerial a b

/-- `46_gf128.md` section 2: the laws DOC asks of the multiplier. -/
def Obligations.GfMulFieldLaws : Prop :=
  (∀ a b : Elem, gfMul a b = gfMul b a) ∧
  (∀ a b c : Elem, gfMul (gfMul a b) c = gfMul a (gfMul b c)) ∧
  (∀ a : Elem, gfMul a 1 = a) ∧
  (∀ a b c : Elem, gfMul a (b ^^^ c) = gfMul a b ^^^ gfMul a c) ∧
  (∀ a : Elem, gfMul a 0 = 0)

/-- `46_gf128.md` R205, R206: the bits of an element from the bytes of its Block, in both orders, and the
Blocks of the identity, of `x` and of `x^127`. -/
def Obligations.BlockElementMaps : Prop :=
  (∀ (b : Block) (i : Nat), i < 128 → (elemOfBlock .reflected b).getLsbD i =
    (blockByte b (i / 8)).getLsbD (7 - i % 8)) ∧
  (∀ (b : Block) (i : Nat), i < 128 → (elemOfBlock .natural b).getLsbD i =
    (blockByte b (15 - i / 8)).getLsbD (i % 8)) ∧
  (∀ (o : Config.BitOrder) (b : Block) (e : Elem), blockOfElem o e = b ↔ elemOfBlock o b = e) ∧
  (∀ (o : Config.BitOrder) (a b : Block), gfMulBlk o a b =
    blockOfElem o (gfMul (elemOfBlock o a) (elemOfBlock o b))) ∧
  blockOfElem .reflected 1 = 0x80000000000000000000000000000000 ∧
  blockOfElem .reflected 2 = 0x40000000000000000000000000000000 ∧
  blockOfElem .reflected (1 <<< 127) = 1 ∧ blockOfElem .natural 1 = 1

/-- `46_gf128.md` R208: GFMUL's two outcomes. -/
def Obligations.GfmulMultipliesBlocks : Prop :=
  decode 0x0004 = .ok .gfmul ∧ ∀ s : State,
    let reach := Reachable s.params ⟨xval s 0, 16⟩ ∧ Reachable s.params ⟨xval s 1, 16⟩ ∧
      Reachable s.params ⟨xval s 2, 16⟩
    (¬ reach → exec .gfmul s = .fault .bufferFault) ∧
    (reach → Memory.wf s.mem = true → ∃ t, exec .gfmul s = .next t ∧
      HoldsBytes t (xval s 2) (bytesOfBlock
        (gfMulBlk s.params.bitOrder (blockAt s (xval s 0)) (blockAt s (xval s 1)))) ∧
      SameOutside [⟨xval s 2, 16⟩] s t ∧ SameHostSide s t ∧ SameBank s t ∧
      t.err = 0 ∧ t.bkused = 0)

/-! ## GHASH -/

/-- `47_ghash.md` R217: the two 64-bit big-endian bit lengths, AAD first. -/
def Obligations.LengthBlockValue : Prop :=
  ∀ a d : Nat, (lenBlock a d).toNat = 2 ^ 64 * (8 * a % 2 ^ 64) + 8 * d % 2 ^ 64

/-- `47_ghash.md` section 1: `Pad16` adds the fewest zero bytes that fill whole blocks. -/
def Obligations.PaddingFillsWithZeros : Prop :=
  ∀ bs : List Byte, ∃ n : Nat, n < 16 ∧ (paddedBlocks bs).flatMap bytesOfBlock = bs ++ List.replicate n 0 ∧
    16 * (paddedBlocks bs).length = bs.length + n

/-- `47_ghash.md` section 1: GHASH of nothing and under the zero subkey is zero, and GHASH is the
polynomial in `h` whose coefficients are the padded AAD, the padded data and the length block. -/
def Obligations.GhashIsPolynomial : Prop :=
  ∀ (o : Config.BitOrder) (h : Block) (aad data : List Byte),
    ghashOf o h [] [] = 0 ∧ ghashOf o 0 aad data = 0 ∧
    ghashOf o h aad data = hornerSum o h
      (paddedBlocks aad ++ paddedBlocks data ++ [lenBlock aad.length data.length])

/-- `47_ghash.md` R220: GHASH's two outcomes. -/
def Obligations.GhashHashesBuffers : Prop :=
  decode 0x0005 = .ok .ghash ∧ ∀ s : State,
    let reach := Reachable s.params ⟨xval s 0, 16⟩ ∧ Reachable s.params ⟨xval s 1, xval s 2⟩ ∧
      Reachable s.params ⟨xval s 3, xval s 4⟩ ∧ Reachable s.params ⟨xval s 5, 16⟩
    (¬ reach → exec .ghash s = .fault .bufferFault) ∧
    (reach → Memory.wf s.mem = true → ∃ t, exec .ghash s = .next t ∧
      HoldsBytes t (xval s 5) (bytesOfBlock (ghashOf s.params.bitOrder (blockAt s (xval s 0))
        (memReadBytes s.mem (xval s 1) (xval s 2)) (memReadBytes s.mem (xval s 3) (xval s 4)))) ∧
      SameOutside [⟨xval s 5, 16⟩] s t ∧ SameHostSide s t ∧ SameBank s t ∧
      t.err = 0 ∧ t.bkused = 0)

/-! ## GCM -/

/-- `48_gcm.md` R231: only the last four bytes change, by one modulo `2^32`. -/
def Obligations.IncrementTouchesCounterOnly : Prop :=
  ∀ cb : Block, (∀ i < 12, blockByte (inc32Of cb) i = blockByte cb i) ∧
    (inc32Of cb).toNat % 2 ^ 32 = (cb.toNat % 2 ^ 32 + 1) % 2 ^ 32

/-- `48_gcm.md` R232: INC32's two outcomes. -/
def Obligations.Inc32IncrementsBlock : Prop :=
  decode 0x0006 = .ok .inc32 ∧ ∀ s : State,
    let reach := Reachable s.params ⟨xval s 0, 16⟩ ∧ Reachable s.params ⟨xval s 1, 16⟩
    (¬ reach → exec .inc32 s = .fault .bufferFault) ∧
    (reach → Memory.wf s.mem = true → ∃ t, exec .inc32 s = .next t ∧
      HoldsBytes t (xval s 1) (bytesOfBlock (inc32Of (blockAt s (xval s 0)))) ∧
      SameOutside [⟨xval s 1, 16⟩] s t ∧ SameHostSide s t ∧ SameBank s t ∧
      t.err = 0 ∧ t.bkused = 0)

/-- `48_gcm.md` R234: a 12-byte IV is followed by the 32-bit value 1; any other is hashed, and one absorb of
the length block is the last multiplication. -/
def Obligations.InitialCounterBlock : Prop :=
  ∀ (o : Config.BitOrder) (h : Block) (iv : List Byte),
    (iv.length = 12 → bytesOfBlock (gcmJ0 o h iv) = iv ++ [0, 0, 0, 1]) ∧
    (iv.length ≠ 12 → gcmJ0 o h iv = ghashOf o h [] iv ∧
      gcmJ0 o h iv = gfMulBlk o
        ((paddedBlocks iv).foldl (fun acc y => gfMulBlk o (acc ^^^ y) h) 0 ^^^
          BitVec.ofNat 128 (8 * iv.length % 2 ^ 64)) h)

/-- `48_gcm.md` R235: byte `i` is XORed with byte `i mod 16` of the encryption of the counter block
`J0 + i/16 + 1`, whose 32-bit field wraps; the length is kept, and counter mode undoes itself. -/
def Obligations.CounterModeBytes : Prop :=
  ∀ (rk : List Word32) (j0 : Block) (d : List Byte),
    (ctr rk j0 d).length = d.length ∧
    (∀ i, (hi : i < d.length) → (ctr rk j0 d)[i]? = some (d[i] ^^^ blockByte (crypt rk
      (BitVec.ofNat 128 (2 ^ 32 * (j0.toNat / 2 ^ 32) + (j0.toNat + i / 16 + 1) % 2 ^ 32))) (i % 16))) ∧
    ctr rk j0 (ctr rk j0 d) = d

/-- `48_gcm.md` R239: the comparison is equality of the two tags. -/
def Obligations.TagComparisonIsEquality : Prop :=
  ∀ (a b : List Byte) (n : Nat), a.length = n → b.length = n →
    (tagEqual a b n = true ↔ a = b)

/-- `48_gcm.md` R238: the checks of GCMENC and GCMDEC and their order, whatever else is wrong. -/
def Obligations.GcmParameterChecks : Prop :=
  ∀ (i : Instr) (s : State), i = .gcmenc ∨ i = .gcmdec →
    (xval s 1 ≠ 16 → exec i s = .next { s with err := 1, bkused := 0 }) ∧
    (xval s 1 = 16 → (xval s 3 < 8 ∨ 1024 < xval s 3) →
      exec i s = .next { s with err := 2, bkused := 0 }) ∧
    (xval s 1 = 16 → 8 ≤ xval s 3 → xval s 3 ≤ 1024 → (xval s 10 < 4 ∨ 16 < xval s 10) →
      exec i s = .next { s with err := 3, bkused := 0 })

/-- `48_gcm.md` R236: GCMENC with legal lengths: ciphertext, then tag, and the key's schedule in the
bank. -/
def Obligations.GcmencEncryptsAndTags : Prop :=
  decode 0x0007 = .ok .gcmenc ∧ ∀ s : State, GcmLengthsOk s →
    ((¬ ∀ b ∈ gcmNamed s, Reachable s.params b) → exec .gcmenc s = .fault .bufferFault) ∧
    ((∀ b ∈ gcmNamed s, Reachable s.params b) → Memory.wf s.mem = true →
      ∃ t, exec .gcmenc s = .next t ∧
      HoldsBytes t (xval s 9) (gcmTagOver s (gcmStreamed s)) ∧
      (∀ k, (h : k < (gcmStreamed s).length) → ¬ inBuffer ⟨xval s 9, xval s 10⟩ (xval s 8 + k) →
        memRead t.mem (xval s 8 + k) = (gcmStreamed s)[k]) ∧
      (gcmStreamed s).length = xval s 7 ∧ (gcmTagOver s (gcmStreamed s)).length = xval s 10 ∧
      SameOutside [⟨xval s 8, xval s 7⟩, ⟨xval s 9, xval s 10⟩] s t ∧ SameHostSide s t ∧
      t.rk = keySchedule (blockAt s (xval s 0)) ∧ t.rkv = true ∧ t.err = 0 ∧ t.bkused = 0)

/-- `48_gcm.md` R240: GCMDEC with legal lengths: plaintext on a match, only zeros on a mismatch, and the
key's schedule in the bank either way. -/
def Obligations.GcmdecVerifiesThenReleases : Prop :=
  decode 0x0008 = .ok .gcmdec ∧ ∀ s : State, GcmLengthsOk s →
    ((¬ ∀ b ∈ gcmNamed s, Reachable s.params b) → exec .gcmdec s = .fault .bufferFault) ∧
    ((∀ b ∈ gcmNamed s, Reachable s.params b) → Memory.wf s.mem = true →
      let ok := gcmTagOver s (gcmInputBytes s) = memReadBytes s.mem (xval s 9) (xval s 10)
      ∃ t, exec .gcmdec s = .next t ∧
      (ok → HoldsBytes t (xval s 8) (gcmStreamed s) ∧ (gcmStreamed s).length = xval s 7 ∧ t.err = 0) ∧
      (¬ ok → HoldsBytes t (xval s 8) (List.replicate (xval s 7) 0) ∧ t.err = 4) ∧
      SameOutside [⟨xval s 8, xval s 7⟩] s t ∧ SameHostSide s t ∧
      t.rk = keySchedule (blockAt s (xval s 0)) ∧ t.rkv = true ∧ t.bkused = 0)

/-- `48_gcm.md` section 7: GCMDEC on what a GCMENC left, with the same key, IV, AAD and tag length, ends
`Ok` and writes the plaintext. The outputs must not overlap each other, the key, the IV or the AAD, which
GCMDEC reads again. -/
def Obligations.GcmRoundTrip : Prop :=
  ∀ (s t : State) (out : Word64), Memory.wf s.mem = true → exec .gcmenc s = .next t → t.err = 0 →
    Apart ⟨xval s 8, xval s 7⟩ ⟨xval s 9, xval s 10⟩ →
    (∀ b ∈ ([⟨xval s 0, 16⟩, ⟨xval s 2, xval s 3⟩, ⟨xval s 4, xval s 5⟩] : List Buffer),
      Apart b ⟨xval s 8, xval s 7⟩ ∧ Apart b ⟨xval s 9, xval s 10⟩) →
    Reachable s.params ⟨out.toNat, xval s 7⟩ →
    ∃ u, exec .gcmdec { t with x := (t.x.set 6 (t.x.get 8)).set 8 out } = .next u ∧ u.err = 0 ∧
      HoldsBytes u out.toNat (memReadBytes s.mem (xval s 6) (xval s 7))

/-- `48_gcm.md` section 7: changing any one of the `X10` tag bytes of a message GCMDEC accepts makes it
report `AuthenticationFailure` and write only zeros. The changed byte must not also be key, IV, AAD or
ciphertext. -/
def Obligations.TamperedTagIsRejected : Prop :=
  ∀ (s t : State) (k : Nat) (b : Byte), Memory.wf s.mem = true → exec .gcmdec s = .next t → t.err = 0 →
    k < xval s 10 → b ≠ memRead s.mem (xval s 9 + k) →
    (∀ c ∈ ([⟨xval s 0, 16⟩, ⟨xval s 2, xval s 3⟩, ⟨xval s 4, xval s 5⟩, ⟨xval s 6, xval s 7⟩] :
      List Buffer), ¬ inBuffer c (xval s 9 + k)) →
    ∃ u, exec .gcmdec { s with mem := memWrite s.mem (xval s 9 + k) b } = .next u ∧ u.err = 4 ∧
      ∀ j < xval s 7, memRead u.mem (xval s 8 + j) = 0
end

