-- ==== Sys2Proof/Laws/Bytes.lean ====
section
/-! SUPPORT. Lengths of byte sequences, and Blocks as bytes and back. -/

namespace Sys2Proof.Machine

@[simp] theorem bytesOfBlock_length (b : Block) : (bytesOfBlock b).length = 16 := by
  simp [bytesOfBlock]

@[simp] theorem blocksOfBytes_length (n : Nat) (bs : List Byte) :
    (blocksOfBytes n bs).length = n := by
  induction n generalizing bs with
  | zero => rfl
  | succ n ih => simp [blocksOfBytes, ih]

@[simp] theorem bytesOfBlocks_length (bs : List Block) :
    (bytesOfBlocks bs).length = 16 * bs.length := by
  induction bs with
  | nil => rfl
  | cons b bs ih =>
    simp only [bytesOfBlocks, List.flatMap_cons, List.length_append, bytesOfBlock_length] at ih ⊢
    simp only [List.length_cons]
    omega

/-- Byte `i` of a Block is the `i`-th of its bytes (`00_scope.md` R12). -/
theorem bytesOfBlock_getElem (b : Block) {i : Nat} (h : i < (bytesOfBlock b).length) :
    (bytesOfBlock b)[i] = blockByte b i := by
  simp [bytesOfBlock]

theorem blockOfBytes_append (bs : List Byte) (b : Byte) :
    blockOfBytes (bs ++ [b]) = (blockOfBytes bs <<< 8) ||| b.setWidth 128 := by
  simp [blockOfBytes]

/-- The bits of a Block from its bytes, the last byte lowest. -/
theorem getLsbD_blockOfBytes (bs : List Byte) (i : Nat) (hi : i < 8 * bs.length) (h128 : bs.length ≤ 16) :
    (blockOfBytes bs).getLsbD i = (bs.getD (bs.length - 1 - i / 8) 0).getLsbD (i % 8) := by
  induction bs using List.reverseRecOn generalizing i with
  | nil => simp at hi
  | append_singleton bs b ih =>
    simp only [List.length_append, List.length_singleton] at hi h128
    rw [blockOfBytes_append]
    by_cases h : i < 8
    · have h1 : i / 8 = 0 := by omega
      have h2 : i % 8 = i := by omega
      simp [h, h1, h2, show i < 128 by omega]
    · have e : (bs ++ [b]).length - 1 - i / 8 = bs.length - 1 - (i - 8) / 8 := by simp; omega
      have e2 : bs.length - 1 - (i - 8) / 8 < bs.length := by omega
      have e3 : (i - 8) % 8 = i % 8 := by omega
      have := ih (i - 8) (by omega) (by omega)
      rw [e, List.getD_append _ _ _ _ e2, ← e3, ← this]
      have hb : b.getLsbD i = false := BitVec.getLsbD_of_ge _ _ (by omega)
      simp [show i < 128 by omega, h, hb, BitVec.getLsbD_eq_getElem (show i - 8 < 128 by omega)]

/-- `ToBE128` undoes `BE128` on 16 bytes (`00_scope.md` R12). -/
theorem bytesOfBlock_blockOfBytes {bs : List Byte} (h : bs.length = 16) :
    bytesOfBlock (blockOfBytes bs) = bs := by
  apply List.ext_getElem (by simp [h])
  intro i h1 h2
  rw [bytesOfBlock_getElem]
  apply BitVec.eq_of_getLsbD_eq
  intro j hj
  have hi : i < 16 := by omega
  have := getLsbD_blockOfBytes bs (120 - 8 * i + j) (by omega) (by omega)
  have e : bs.length - 1 - (120 - 8 * i + j) / 8 = i := by omega
  have e2 : (120 - 8 * i + j) % 8 = j := by omega
  rw [e, e2] at this
  simp only [blockByte, BitVec.getLsbD_setWidth, BitVec.getLsbD_ushiftRight, this]
  simp [hj, h2]

/-- `BE128` undoes `ToBE128` (`00_scope.md` R12). -/
theorem blockOfBytes_bytesOfBlock (b : Block) : blockOfBytes (bytesOfBlock b) = b := by
  apply BitVec.eq_of_getLsbD_eq
  intro i hi
  rw [getLsbD_blockOfBytes _ _ (by simp; omega) (by simp), bytesOfBlock_length]
  rw [List.getD_eq_getElem _ _ (by simp; omega), bytesOfBlock_getElem]
  have e : 120 - 8 * (16 - 1 - i / 8) + i % 8 = i := by omega
  simp [blockByte, e, show i % 8 < 8 by omega]
end Sys2Proof.Machine
end

