-- ==== Sys2Proof/Laws/Gf8.lean ====
section
/-! SUPPORT. The byte constants of the vector units, checked at all 256 bytes: the tabulated inversion is
the field's inversion, and both substitutions are the S-box. -/

namespace Sys2Proof.Machine

theorem invP_zero : invP 0 = 0 := by decide +kernel

/-- `Inv_P` is the multiplicative inverse modulo `p_P` (`44_vector_core_b.md` R167). -/
theorem invP_spec : ∀ b : Byte, b ≠ 0 → gf8Mul polyP b (invP b) = 1 := by decide +kernel

/-- `Pbox[b] = A_P * Inv_P(b) ^ 0x63` (`43_vector_core_a.md` R152). -/
theorem pbox_eq : ∀ b : Byte, pbox b = affineApply affineP (invP b) := by decide +kernel

/-- `PostA(Pbox[PreA(b)]) = Sbox[b]` (`43_vector_core_a.md` R153). -/
theorem subA_byte : ∀ b : Byte,
    affineApply affine2 (pbox (affineApply affine1 b)) = sbox b := by decide +kernel

/-- `M3 * Inv_P(M1 * b ^ c1) ^ 0xD3 = Sbox[b]` (`44_vector_core_b.md` R168). -/
theorem subB_byte : ∀ b : Byte,
    affineApply affine3 (invP (affineApply affine1 b)) = sbox b := by decide +kernel

end Sys2Proof.Machine
end

