-- ==== Sys2Proof/Laws/Memory.lean ====
section
/-! SUPPORT. Memory: reads after writes, and every memory operation keeps the canonical form. -/

namespace Sys2Proof.Machine

/-- A memory sorted from `lo` reads as unlisted below `lo`. -/
theorem memRead_below {m : Memory} {lo a : Nat} (h : memSortedFrom lo m = true) (ha : a < lo) :
    memRead m a = unlistedByte := by
  induction m generalizing lo with
  | nil => rfl
  | cons c m ih =>
    obtain ⟨k, v⟩ := c
    simp only [memSortedFrom, Bool.and_eq_true, decide_eq_true_eq] at h
    simp only [memRead]
    rw [if_neg (by omega)]
    exact ih h.2 (by omega)

theorem memSortedFrom_mono {m : Memory} {lo lo' : Nat} (h : memSortedFrom lo m = true)
    (hl : lo' ≤ lo) : memSortedFrom lo' m = true := by
  cases m with
  | nil => rfl
  | cons c m =>
    obtain ⟨k, v⟩ := c
    simp only [memSortedFrom, Bool.and_eq_true, decide_eq_true_eq] at h ⊢
    exact ⟨⟨by omega, h.1.2⟩, h.2⟩

theorem memWrite_sortedFrom {m : Memory} {lo a : Nat} {b : Byte} (h : memSortedFrom lo m = true)
    (ha : lo ≤ a) : memSortedFrom lo (memWrite m a b) = true := by
  induction m generalizing lo with
  | nil =>
    simp only [memWrite]
    split <;> simp_all [memSortedFrom]
  | cons c m ih =>
    obtain ⟨k, v⟩ := c
    have h0 := h
    simp only [memSortedFrom, Bool.and_eq_true, decide_eq_true_eq] at h
    simp only [memWrite]
    split
    · split
      · exact h0
      · rename_i hak hb
        simp only [memSortedFrom, Bool.and_eq_true, decide_eq_true_eq, bne_iff_ne]
        exact ⟨⟨ha, hb⟩, ⟨by omega, by simpa using h.1.2⟩, h.2⟩
    · split
      · split
        · exact memSortedFrom_mono h.2 (by omega)
        · rename_i hak hb
          simp only [memSortedFrom, Bool.and_eq_true, decide_eq_true_eq, bne_iff_ne]
          exact ⟨⟨ha, hb⟩, memSortedFrom_mono h.2 (by omega)⟩
      · simp only [memSortedFrom, Bool.and_eq_true, decide_eq_true_eq]
        exact ⟨h.1, ih h.2 (by omega)⟩

/-- A byte write keeps the canonical form. -/
theorem memWrite_wf {m : Memory} (h : Memory.wf m = true) (a : Nat) (b : Byte) :
    Memory.wf (memWrite m a b) = true :=
  memWrite_sortedFrom h (Nat.zero_le a)

/-- A buffer write keeps the canonical form. -/
theorem memWriteBytes_wf {m : Memory} (h : Memory.wf m = true) (a : Nat) (bs : List Byte) :
    Memory.wf (memWriteBytes m a bs) = true := by
  induction bs generalizing m a with
  | nil => exact h
  | cons b bs ih => exact ih (memWrite_wf h a b) (a + 1)

/-- The memory of the reset state is in canonical form. -/
theorem reset_mem_wf : Memory.wf State.reset.mem = true := rfl

/-- A byte write lists no address but its own beside those listed before. -/
theorem memWrite_mem {m : Memory} {a : Nat} {b : Byte} {c : Host.Cell} (h : c ∈ memWrite m a b) :
    c.1 = a ∨ c ∈ m := by
  induction m with
  | nil =>
    simp only [memWrite] at h
    split at h <;> simp_all
  | cons d m ih =>
    obtain ⟨k, v⟩ := d
    simp only [memWrite] at h
    split at h
    · split at h
      · exact .inr h
      · rcases List.mem_cons.1 h with h | h
        · exact .inl (by rw [h])
        · exact .inr h
    · split at h
      · split at h
        · exact .inr (List.mem_cons_of_mem _ h)
        · rcases List.mem_cons.1 h with h | h
          · exact .inl (by rw [h])
          · exact .inr (List.mem_cons_of_mem _ h)
      · simp only [List.mem_cons] at h ⊢
        rcases h with h | h
        · exact .inr (.inl h)
        · exact (ih h).imp id .inr

/-- A byte write leaves every other address as it was. -/
theorem memRead_memWrite_ne (m : Memory) {a a' : Nat} (b : Byte) (h : a' ≠ a) :
    memRead (memWrite m a b) a' = memRead m a' := by
  have hne : ¬ a = a' := fun e => h e.symm
  induction m with
  | nil => simp only [memWrite]; split <;> simp [memRead, hne]
  | cons d m ih =>
    obtain ⟨k, v⟩ := d
    simp only [memWrite]
    split
    · split <;> simp [memRead, hne]
    · split
      · rename_i hk
        subst hk
        split <;> simp [memRead, hne]
      · simp only [memRead, ih]

/-- In a memory in canonical form, an address reads as the byte last written to it. -/
theorem memRead_memWrite_same {m : Memory} {lo a : Nat} (b : Byte)
    (h : memSortedFrom lo m = true) : memRead (memWrite m a b) a = b := by
  induction m generalizing lo with
  | nil => simp only [memWrite]; split <;> simp_all [memRead]
  | cons d m ih =>
    obtain ⟨k, v⟩ := d
    have h0 := h
    simp only [memSortedFrom, Bool.and_eq_true, decide_eq_true_eq] at h
    simp only [memWrite]
    split
    · rename_i hak
      split
      · rename_i hb
        have hlow : memRead m a = unlistedByte := memRead_below h.2 (by omega)
        simp [memRead, hlow, hb, show ¬ k = a by omega]
      · simp [memRead]
    · split
      · rename_i hk
        split
        · rename_i hb
          rw [memRead_below h.2 (by omega), hb]
        · simp [memRead]
      · rename_i hak hne
        simp only [memRead]
        rw [if_neg (fun e => hne e.symm)]
        exact ih h.2

/-- A buffer write leaves every address outside the written bytes as it was. -/
theorem memRead_memWriteBytes_outside (m : Memory) {a a' : Nat} (bs : List Byte)
    (h : a' < a ∨ a + bs.length ≤ a') : memRead (memWriteBytes m a bs) a' = memRead m a' := by
  induction bs generalizing m a with
  | nil => rfl
  | cons b bs ih =>
    simp only [List.length_cons] at h
    simp only [memWriteBytes]
    rw [ih _ (by omega), memRead_memWrite_ne _ _ (by omega)]

/-- In a memory in canonical form, a buffer holds the bytes last written to it (`20_memory.md` R51). -/
theorem memRead_memWriteBytes_inside {m : Memory} (hm : Memory.wf m = true) {a k : Nat}
    {bs : List Byte} (hk : k < bs.length) :
    memRead (memWriteBytes m a bs) (a + k) = bs[k] := by
  induction bs generalizing m a k with
  | nil => simp at hk
  | cons b bs ih =>
    simp only [memWriteBytes]
    cases k with
    | zero =>
      rw [memRead_memWriteBytes_outside _ _ (by omega)]
      simpa using memRead_memWrite_same (lo := 0) b hm
    | succ k =>
      have := ih (memWrite_wf hm a b) (a := a + 1) (k := k) (by simpa using hk)
      simpa [Nat.add_assoc, Nat.add_comm 1] using this

/-- A buffer write lists only addresses of the written bytes beside those listed before. -/
theorem memWriteBytes_mem {m : Memory} {a : Nat} {bs : List Byte} {c : Host.Cell}
    (h : c ∈ memWriteBytes m a bs) : (a ≤ c.1 ∧ c.1 < a + bs.length) ∨ c ∈ m := by
  induction bs generalizing m a with
  | nil => exact .inr h
  | cons b bs ih =>
    simp only [memWriteBytes] at h
    simp only [List.length_cons]
    rcases ih h with h | h
    · exact .inl ⟨by omega, by omega⟩
    · rcases memWrite_mem h with h | h
      · exact .inl ⟨by omega, by omega⟩
      · exact .inr h

@[simp] theorem memReadBytes_length (m : Memory) (a n : Nat) : (memReadBytes m a n).length = n := by
  induction n generalizing a with
  | zero => rfl
  | succ n ih => simp [memReadBytes, ih]

/-- Byte `k` of a read is the byte at `addr + k` (`20_memory.md` R50). -/
theorem memReadBytes_getElem (m : Memory) (a : Nat) {n k : Nat}
    (h : k < (memReadBytes m a n).length) : (memReadBytes m a n)[k] = memRead m (a + k) := by
  induction n generalizing a k with
  | zero => simp [memReadBytes] at h
  | succ n ih =>
    cases k with
    | zero => simp [memReadBytes]
    | succ k => simp [memReadBytes, ih, Nat.add_assoc, Nat.add_comm 1]

/-- Two memories that read alike on a buffer give the same bytes. -/
theorem memReadBytes_congr {m m' : Memory} {a n : Nat}
    (h : ∀ k < n, memRead m (a + k) = memRead m' (a + k)) :
    memReadBytes m a n = memReadBytes m' a n := by
  apply List.ext_getElem (by simp)
  intro k h1 h2
  rw [memReadBytes_getElem, memReadBytes_getElem]
  exact h k (by simpa using h1)

end Sys2Proof.Machine
end

