-- ==== Sys2Proof/Laws/State.lean ====
section
/-! SUPPORT. One lemma per field per update of the state, so that no proof unfolds a record update. -/

namespace Sys2Proof.Machine

variable (s : State)

/-! `X[i] <- v` changes `X` only. -/

@[simp] theorem setX_x (i : Fin 16) (v : Word64) : (setX i v s).x = s.x.set i v := rfl
@[simp] theorem setX_rk (i : Fin 16) (v : Word64) : (setX i v s).rk = s.rk := rfl
@[simp] theorem setX_rkv (i : Fin 16) (v : Word64) : (setX i v s).rkv = s.rkv := rfl
@[simp] theorem setX_err (i : Fin 16) (v : Word64) : (setX i v s).err = s.err := rfl
@[simp] theorem setX_bkused (i : Fin 16) (v : Word64) : (setX i v s).bkused = s.bkused := rfl
@[simp] theorem setX_mem (i : Fin 16) (v : Word64) : (setX i v s).mem = s.mem := rfl
@[simp] theorem setX_params (i : Fin 16) (v : Word64) : (setX i v s).params = s.params := rfl
@[simp] theorem setX_pending (i : Fin 16) (v : Word64) : (setX i v s).pending = s.pending := rfl
@[simp] theorem setX_returned (i : Fin 16) (v : Word64) : (setX i v s).returned = s.returned := rfl

/-! Loading the bank changes `RK` and `RKV` only. -/

@[simp] theorem loadBank_x (r : Vector Word32 32) : (loadBank r s).x = s.x := rfl
@[simp] theorem loadBank_rk (r : Vector Word32 32) : (loadBank r s).rk = r := rfl
@[simp] theorem loadBank_rkv (r : Vector Word32 32) : (loadBank r s).rkv = true := rfl
@[simp] theorem loadBank_err (r : Vector Word32 32) : (loadBank r s).err = s.err := rfl
@[simp] theorem loadBank_bkused (r : Vector Word32 32) : (loadBank r s).bkused = s.bkused := rfl
@[simp] theorem loadBank_mem (r : Vector Word32 32) : (loadBank r s).mem = s.mem := rfl
@[simp] theorem loadBank_params (r : Vector Word32 32) : (loadBank r s).params = s.params := rfl
@[simp] theorem loadBank_pending (r : Vector Word32 32) : (loadBank r s).pending = s.pending := rfl
@[simp] theorem loadBank_returned (r : Vector Word32 32) : (loadBank r s).returned = s.returned := rfl

/-! Ending a command changes `ERR` and `BKUSED` only. -/

@[simp] theorem endCommand_x (e : ErrorKind) (u : BitVec 4) : (endCommand e u s).x = s.x := rfl
@[simp] theorem endCommand_rk (e : ErrorKind) (u : BitVec 4) : (endCommand e u s).rk = s.rk := rfl
@[simp] theorem endCommand_rkv (e : ErrorKind) (u : BitVec 4) : (endCommand e u s).rkv = s.rkv := rfl
@[simp] theorem endCommand_err (e : ErrorKind) (u : BitVec 4) : (endCommand e u s).err = errorCode e := rfl
@[simp] theorem endCommand_bkused (e : ErrorKind) (u : BitVec 4) : (endCommand e u s).bkused = u := rfl
@[simp] theorem endCommand_mem (e : ErrorKind) (u : BitVec 4) : (endCommand e u s).mem = s.mem := rfl
@[simp] theorem endCommand_params (e : ErrorKind) (u : BitVec 4) : (endCommand e u s).params = s.params := rfl
@[simp] theorem endCommand_pending (e : ErrorKind) (u : BitVec 4) : (endCommand e u s).pending = s.pending := rfl
@[simp] theorem endCommand_returned (e : ErrorKind) (u : BitVec 4) : (endCommand e u s).returned = s.returned := rfl

/-! `raise` changes `ERR` and `BKUSED` only (`60_exceptions.md` R263). -/

@[simp] theorem raise_x (e : ErrorKind) : (raise e s).x = s.x := rfl
@[simp] theorem raise_rk (e : ErrorKind) : (raise e s).rk = s.rk := rfl
@[simp] theorem raise_rkv (e : ErrorKind) : (raise e s).rkv = s.rkv := rfl
@[simp] theorem raise_err (e : ErrorKind) : (raise e s).err = errorCode e := rfl
@[simp] theorem raise_bkused (e : ErrorKind) : (raise e s).bkused = 0 := rfl
@[simp] theorem raise_mem (e : ErrorKind) : (raise e s).mem = s.mem := rfl
@[simp] theorem raise_params (e : ErrorKind) : (raise e s).params = s.params := rfl
@[simp] theorem raise_pending (e : ErrorKind) : (raise e s).pending = s.pending := rfl
@[simp] theorem raise_returned (e : ErrorKind) : (raise e s).returned = s.returned := rfl

/-! A buffer write changes `MEM` only (`20_memory.md` R51). -/

@[simp] theorem writeBuffer_x (b : Buffer) (bs : List Byte) : (writeBuffer b bs s).x = s.x := rfl
@[simp] theorem writeBuffer_rk (b : Buffer) (bs : List Byte) : (writeBuffer b bs s).rk = s.rk := rfl
@[simp] theorem writeBuffer_rkv (b : Buffer) (bs : List Byte) : (writeBuffer b bs s).rkv = s.rkv := rfl
@[simp] theorem writeBuffer_err (b : Buffer) (bs : List Byte) : (writeBuffer b bs s).err = s.err := rfl
@[simp] theorem writeBuffer_bkused (b : Buffer) (bs : List Byte) : (writeBuffer b bs s).bkused = s.bkused := rfl
@[simp] theorem writeBuffer_mem (b : Buffer) (bs : List Byte) : (writeBuffer b bs s).mem = memWriteBytes s.mem b.addr bs := rfl
@[simp] theorem writeBuffer_params (b : Buffer) (bs : List Byte) : (writeBuffer b bs s).params = s.params := rfl
@[simp] theorem writeBuffer_pending (b : Buffer) (bs : List Byte) : (writeBuffer b bs s).pending = s.pending := rfl
@[simp] theorem writeBuffer_returned (b : Buffer) (bs : List Byte) : (writeBuffer b bs s).returned = s.returned := rfl

/-! The host's store changes `MEM` only. -/

@[simp] theorem hostStore_x (a : Word64) (b : Byte) : (hostStore a b s).x = s.x := rfl
@[simp] theorem hostStore_rk (a : Word64) (b : Byte) : (hostStore a b s).rk = s.rk := rfl
@[simp] theorem hostStore_rkv (a : Word64) (b : Byte) : (hostStore a b s).rkv = s.rkv := rfl
@[simp] theorem hostStore_err (a : Word64) (b : Byte) : (hostStore a b s).err = s.err := rfl
@[simp] theorem hostStore_bkused (a : Word64) (b : Byte) : (hostStore a b s).bkused = s.bkused := rfl
@[simp] theorem hostStore_mem (a : Word64) (b : Byte) : (hostStore a b s).mem = memWrite s.mem a.toNat b := rfl
@[simp] theorem hostStore_params (a : Word64) (b : Byte) : (hostStore a b s).params = s.params := rfl
@[simp] theorem hostStore_pending (a : Word64) (b : Byte) : (hostStore a b s).pending = s.pending := rfl
@[simp] theorem hostStore_returned (a : Word64) (b : Byte) : (hostStore a b s).returned = s.returned := rfl

/-! Returning a value changes the host's side only. -/

@[simp] theorem returnValue_x (v : Word64) : (returnValue v s).x = s.x := rfl
@[simp] theorem returnValue_rk (v : Word64) : (returnValue v s).rk = s.rk := rfl
@[simp] theorem returnValue_rkv (v : Word64) : (returnValue v s).rkv = s.rkv := rfl
@[simp] theorem returnValue_err (v : Word64) : (returnValue v s).err = s.err := rfl
@[simp] theorem returnValue_bkused (v : Word64) : (returnValue v s).bkused = s.bkused := rfl
@[simp] theorem returnValue_mem (v : Word64) : (returnValue v s).mem = s.mem := rfl
@[simp] theorem returnValue_params (v : Word64) : (returnValue v s).params = s.params := rfl
@[simp] theorem returnValue_pending (v : Word64) : (returnValue v s).pending = s.pending := rfl
@[simp] theorem returnValue_returned (v : Word64) : (returnValue v s).returned = v :: s.returned := rfl

/-! Reset clears the CORE's registers and touches nothing else (`70_reset_and_hazards.md` R291). -/

@[simp] theorem resetEvent_x : (resetEvent s).x = Vector.replicate 16 0 := rfl
@[simp] theorem resetEvent_rk : (resetEvent s).rk = Vector.replicate 32 0 := rfl
@[simp] theorem resetEvent_rkv : (resetEvent s).rkv = false := rfl
@[simp] theorem resetEvent_err : (resetEvent s).err = 0 := rfl
@[simp] theorem resetEvent_bkused : (resetEvent s).bkused = 0 := rfl
@[simp] theorem resetEvent_mem : (resetEvent s).mem = s.mem := rfl
@[simp] theorem resetEvent_params : (resetEvent s).params = s.params := rfl
@[simp] theorem resetEvent_pending : (resetEvent s).pending = s.pending := rfl
@[simp] theorem resetEvent_returned : (resetEvent s).returned = s.returned := rfl

end Sys2Proof.Machine
end

