-- ==== Sys2Proof/Laws/Ops.lean ====
section
/-! SUPPORT. What each shared operation over the state can do, once: accessibility, the command frame, the
two command families' frames, the host's events. -/

namespace Sys2Proof.Machine

open Sys2Proof.Safety

theorem inRam_iff (p : Config.Params) (a : Nat) :
    inRam p a = true ↔ ∃ r ∈ p.ram, r.lo ≤ a ∧ a < r.hi := by
  simp [inRam]

theorem spanInRam_iff (p : Config.Params) (a n : Nat) :
    spanInRam p a n = true ↔ ∀ k < n, ∃ r ∈ p.ram, r.lo ≤ a + k ∧ a + k < r.hi := by
  induction n generalizing a with
  | zero => simp [spanInRam]
  | succ n ih =>
    simp only [spanInRam, Bool.and_eq_true, ih, inRam_iff]
    constructor
    · rintro ⟨h1, h2⟩ k hk
      cases k with
      | zero => exact h1
      | succ k =>
        have := h2 k (by omega)
        rwa [show a + 1 + k = a + (k + 1) by omega] at this
    · intro h
      refine ⟨h 0 (by omega), fun k hk => ?_⟩
      have := h (k + 1) (by omega)
      rwa [show a + (k + 1) = a + 1 + k by omega] at this

theorem lengthFits_iff (n : Nat) : lengthFits n = true ↔ n < 2 ^ 64 := decide_eq_true_iff

/-- The accessibility check of phase 3 is the accessibility of every byte of a buffer shorter than `2^64`
(`20_memory.md` R52, `49_arithmetic_and_absent_families.md` R223). -/
theorem accessible_iff (s : State) (b : Buffer) : accessible s b = true ↔ Reachable s.params b := by
  have hl : decide (b.addr + b.len ≤ Config.addressLimit) = true ↔ b.addr + b.len ≤ 2 ^ 64 :=
    decide_eq_true_iff
  simp only [accessible, Bool.or_eq_true, beq_iff_eq, Bool.and_eq_true, hl, lengthFits_iff, spanInRam_iff,
    Reachable]
  constructor
  · rintro (h | ⟨⟨h0, h1⟩, h2⟩)
    · exact ⟨by omega, fun k hk => by omega⟩
    · exact ⟨h0, fun k hk => ⟨by omega, h2 k hk⟩⟩
  · rintro ⟨hn, h⟩
    by_cases h0 : b.len = 0
    · exact .inl h0
    · have := (h (b.len - 1) (by omega)).1
      exact .inr ⟨⟨hn, by omega⟩, fun k hk => (h k hk).2⟩

theorem all_accessible_iff (s : State) (bs : List Buffer) :
    bs.all (accessible s) = true ↔ ∀ b ∈ bs, Reachable s.params b := by
  simp only [List.all_eq_true, accessible_iff]

variable {check : ErrorKind} {bs : List Buffer} {body : State → State} {s t : State}

/-- A command answers a next state in two ways: a failed check raised its kind, or the body ran with every
buffer accessible (`30_encoding.md` R81). -/
theorem runCommand_next_iff : runCommand check bs body s = .next t ↔
    (check ≠ .ok ∧ t = raise check s) ∨
    (check = .ok ∧ (∀ b ∈ bs, Reachable s.params b) ∧ t = body s) := by
  rw [← all_accessible_iff, eq_comm (a := t), eq_comm (a := t)]
  unfold runCommand
  by_cases h : check = .ok
  · by_cases h2 : bs.all (accessible s) = true <;> simp only [h, h2] <;> simp
  · simp [h]

/-- A command faults in one way: the checks pass and some buffer is not accessible
(`20_memory.md` R52). -/
theorem runCommand_fault_iff {f : Fault} : runCommand check bs body s = .fault f ↔
    check = .ok ∧ ¬ (∀ b ∈ bs, Reachable s.params b) ∧ f = .bufferFault := by
  rw [← all_accessible_iff, eq_comm (a := f)]
  unfold runCommand
  by_cases h : check = .ok
  · by_cases h2 : bs.all (accessible s) = true <;> simp only [h, h2] <;> simp
  · simp [h]

/-- No command is refused. -/
theorem runCommand_not_refused {r : Refusal} : runCommand check bs body s ≠ .refused r := by
  unfold runCommand
  by_cases h : check = .ok
  · by_cases h2 : bs.all (accessible s) = true <;> simp only [h, h2] <;> simp
  · simp [h]

/-- A command whose check fails ends with that kind and nothing else (`60_exceptions.md` R263). -/
theorem runCommand_raise (h : check ≠ .ok) : runCommand check bs body s = .next (raise check s) :=
  runCommand_next_iff.2 (.inl ⟨h, rfl⟩)

/-- A command whose checks pass on accessible buffers runs its body (`30_encoding.md` R81). -/
theorem runCommand_body (h : check = .ok) (hb : ∀ b ∈ bs, Reachable s.params b) :
    runCommand check bs body s = .next (body s) :=
  runCommand_next_iff.2 (.inr ⟨h, hb, rfl⟩)

theorem kexpCheck_ok_iff (s : State) : kexpCheck s = .ok ↔ xval s 1 = 16 := by
  unfold kexpCheck; split <;> simp_all

theorem keyedCheck_ok_iff (s : State) : keyedCheck s = .ok ↔ s.rkv = true := by
  unfold keyedCheck; cases s.rkv <;> simp

theorem gcmCheck_ok_iff (s : State) : gcmCheck s = .ok ↔ GcmLengthsOk s := by
  unfold gcmCheck GcmLengthsOk
  split
  · simp_all
  · split
    · simp; omega
    · split
      · simp; omega
      · simp; omega

/-- What a BLK command answers (`42_block_scalar_table.md` R133). -/
theorem blkCommand_next_iff {core : List Word32 → Block → Block} {unit : Config.Backend} :
    blkCommand core unit s = .next t ↔
    (s.rkv = false ∧ t = raise .noKey s) ∨
    (s.rkv = true ∧ Reachable s.params (blkSrc s) ∧ Reachable s.params (blkDst s) ∧
      t = blkBody core unit s) := by
  unfold blkCommand
  rw [runCommand_next_iff, keyedCheck_ok_iff]
  cases h : s.rkv <;> simp [keyedCheck, h, and_assoc]

/-- What a BLKS command answers (`45_dispatch.md` R199). -/
theorem blksCommand_next_iff {req : Request} {dir : Direction} :
    blksCommand req dir s = .next t ↔
    (s.rkv = false ∧ t = raise .noKey s) ∨
    (s.rkv = true ∧ Reachable s.params (blksSrc s) ∧ Reachable s.params (blksDst s) ∧
      t = blksBody req dir s) := by
  unfold blksCommand
  rw [runCommand_next_iff, keyedCheck_ok_iff]
  cases h : s.rkv <;> simp [keyedCheck, h, and_assoc]

/-- Every command runs in the frame of `30_encoding.md` R81. -/
theorem exec_eq_runCommand (i : Instr) (s : State) :
    ∃ check bs body, exec i s = runCommand check bs body s := by
  cases i
  case kexp => exact ⟨kexpCheck s, [kexpKey s], kexpBody, rfl⟩
  case gfmul => exact ⟨noCheck, [gfmulA s, gfmulB s, gfmulDst s], gfmulBody, rfl⟩
  case ghash => exact ⟨noCheck, [ghashKey s, ghashAad s, ghashData s, ghashDst s], ghashBody, rfl⟩
  case inc32 => exact ⟨noCheck, [inc32Src s, inc32Dst s], inc32Body, rfl⟩
  case gcmenc => exact ⟨gcmCheck s, gcmBuffers s, gcmencBody, rfl⟩
  case gcmdec => exact ⟨gcmCheck s, gcmBuffers s, gcmdecBody, rfl⟩
  case blkSE | blkSD | blkTE | blkTD => exact ⟨keyedCheck s, [blkSrc s, blkDst s], blkBody _ _, rfl⟩
  all_goals exact ⟨keyedCheck s, [blksSrc s, blksDst s], blksBody _ _, rfl⟩

/-- An offset is of the window exactly where it is well formed (`30_encoding.md` R72 (a)). -/
theorem windowReg_isSome (off : Nat) : (windowReg off).isSome = windowOffsetWf off := by
  unfold windowReg windowOffsetWf
  by_cases h : off % 8 = 0 <;> by_cases h2 : off < 512 <;> simp [h, h2]

theorem windowReg_none_iff (off : Nat) : windowReg off = none ↔ windowOffsetWf off = false := by
  rw [← windowReg_isSome]; cases windowReg off <;> simp

/-- The register window's write: what a next state can be (`30_encoding.md` R72). -/
theorem windowWrite_next_cases {r : WindowReg} {v : Word64} (h : windowWrite v s r = .next t) :
    (r = .cmd ∧ commandWrite v s = .next t) ∨ (∃ i, r = .x i ∧ t = setX i v s) ∨ t = s := by
  cases r with
  | cmd => exact .inl ⟨rfl, h⟩
  | x i => exact .inr (.inl ⟨i, rfl, (Host.Outcome.next.inj h).symm⟩)
  | status | cap | reserved => exact .inr (.inr (Host.Outcome.next.inj h).symm)
  | rkr i => exact .inr (.inr (Host.Outcome.next.inj h).symm)

/-- A write to CMD: what a next state can be (`30_encoding.md` R77, R81). -/
theorem commandWrite_next_cases {w : Word64} (h : commandWrite w s = .next t) :
    (∃ i, decode w = .ok i ∧ exec i s = .next t) ∨
    (∃ e, decode w = .error e ∧ t = raise .illegalCommand s) := by
  unfold commandWrite at h
  split at h
  · exact .inl ⟨_, ‹_›, h⟩
  · exact .inr ⟨_, ‹_›, (Host.Outcome.next.inj h).symm⟩

/-- One event: what a next state can be. -/
theorem hostEvent_next_cases {e : HostEvent} (h : hostEvent e s = .next t) :
    (∃ off w, e = .wr off w ∧ windowReg off = some .cmd ∧ commandWrite w s = .next t) ∨
    (∃ off v i, e = .wr off v ∧ windowReg off = some (.x i) ∧ t = setX i v s) ∨
    (∃ off v, e = .wr off v ∧ t = s) ∨
    (∃ off r, e = .rd off ∧ windowReg off = some r ∧ t = returnValue (windowRead s r) s) ∨
    (∃ a b, e = .store a b ∧ t = hostStore a b s) ∨
    (e = .reset ∧ t = resetEvent s) := by
  cases e with
  | wr off v =>
    simp only [hostEvent, transactionWr] at h
    split at h
    · rename_i r hr
      rcases windowWrite_next_cases h with ⟨hc, ht⟩ | ⟨i, hx, ht⟩ | ht
      · exact .inl ⟨_, _, rfl, hc ▸ hr, ht⟩
      · exact .inr (.inl ⟨_, _, i, rfl, hx ▸ hr, ht⟩)
      · exact .inr (.inr (.inl ⟨_, _, rfl, ht⟩))
    · cases h
  | rd off =>
    simp only [hostEvent, transactionRd] at h
    split at h
    · rename_i r hr
      exact .inr (.inr (.inr (.inl ⟨_, r, rfl, hr, (Host.Outcome.next.inj h).symm⟩)))
    · cases h
  | store a b =>
    exact .inr (.inr (.inr (.inr (.inl ⟨_, _, rfl, (Host.Outcome.next.inj h).symm⟩))))
  | reset => exact .inr (.inr (.inr (.inr (.inr ⟨rfl, (Host.Outcome.next.inj h).symm⟩))))

/-- One step: idle, or the host's next event with the queue advanced. -/
theorem step_next_cases (h : step s = .next t) :
    (s.pending = [] ∧ t = s) ∨
    (∃ e rest, s.pending = e :: rest ∧ hostEvent e { s with pending := rest } = .next t) := by
  unfold step nextEvent at h
  split at h
  · exact .inl ⟨‹_›, (Host.Outcome.next.inj h).symm⟩
  · exact .inr ⟨_, _, ‹_›, h⟩

end Sys2Proof.Machine
end

