-- ==== Sys2Proof/Laws/PerInstr.lean ====
section
/-! SUPPORT. Statements made per instruction: the encoding of each command, as syntax. -/

namespace Sys2Proof.Laws.RoundTrip

/-- A command is well formed, its word has the fields of `30_encoding.md` R73 with bits 63:12 zero, and
decodes to the command. -/
def Statement (i : Instr) : Prop :=
  i.wf = true ∧ encode i = commandWord (opcOf (encode i)) (bkOf (encode i)) (dirOf (encode i)) ∧
  zeroOf (encode i) = 0 ∧ decode (encode i) = .ok i

theorem kexp : Statement .kexp := ⟨rfl, rfl, rfl, rfl⟩
theorem blkSE : Statement .blkSE := ⟨rfl, rfl, rfl, rfl⟩
theorem blkSD : Statement .blkSD := ⟨rfl, rfl, rfl, rfl⟩
theorem blkTE : Statement .blkTE := ⟨rfl, rfl, rfl, rfl⟩
theorem blkTD : Statement .blkTD := ⟨rfl, rfl, rfl, rfl⟩
theorem blksAutoE : Statement .blksAutoE := ⟨rfl, rfl, rfl, rfl⟩
theorem blksAutoD : Statement .blksAutoD := ⟨rfl, rfl, rfl, rfl⟩
theorem blksSE : Statement .blksSE := ⟨rfl, rfl, rfl, rfl⟩
theorem blksSD : Statement .blksSD := ⟨rfl, rfl, rfl, rfl⟩
theorem blksTE : Statement .blksTE := ⟨rfl, rfl, rfl, rfl⟩
theorem blksTD : Statement .blksTD := ⟨rfl, rfl, rfl, rfl⟩
theorem blksVaE : Statement .blksVaE := ⟨rfl, rfl, rfl, rfl⟩
theorem blksVaD : Statement .blksVaD := ⟨rfl, rfl, rfl, rfl⟩
theorem blksVbE : Statement .blksVbE := ⟨rfl, rfl, rfl, rfl⟩
theorem blksVbD : Statement .blksVbD := ⟨rfl, rfl, rfl, rfl⟩
theorem gfmul : Statement .gfmul := ⟨rfl, rfl, rfl, rfl⟩
theorem ghash : Statement .ghash := ⟨rfl, rfl, rfl, rfl⟩
theorem inc32 : Statement .inc32 := ⟨rfl, rfl, rfl, rfl⟩
theorem gcmenc : Statement .gcmenc := ⟨rfl, rfl, rfl, rfl⟩
theorem gcmdec : Statement .gcmdec := ⟨rfl, rfl, rfl, rfl⟩

end Sys2Proof.Laws.RoundTrip
end

