-- ==== Sys2Proof/Laws/Sm4.lean ====
section
/-! SUPPORT. Words and lanes: a bytewise map acts on each byte alone, and maps compose. -/

namespace Sys2Proof.Machine

/-- A word is its four bytes (`00_scope.md` R11). -/
theorem word_eq_bytes (x : Word32) :
    x = wordByte x 0 ++ wordByte x 1 ++ wordByte x 2 ++ wordByte x 3 := by
  apply BitVec.eq_of_getLsbD_eq
  intro i hi
  simp only [wordByte, BitVec.getLsbD_append, BitVec.getLsbD_setWidth, BitVec.getLsbD_ushiftRight]
  by_cases h0 : i < 8
  · simp [h0]
  · by_cases h1 : i < 16
    · simp [h0, show i - 8 < 8 by omega, show 8 + (i - 8) = i by omega]
    · by_cases h2 : i < 24
      · simp [h0, show ¬ i - 8 < 8 by omega, show i - 8 - 8 < 8 by omega,
          show 16 + (i - 8 - 8) = i by omega]
      · simp [h0, show ¬ i - 8 < 8 by omega, show ¬ i - 8 - 8 < 8 by omega,
          show i - 8 - 8 - 8 < 8 by omega, show 24 + (i - 8 - 8 - 8) = i by omega]

/-- The bytes of four joined bytes. -/
theorem wordByte_append (a b c d : Byte) :
    wordByte (a ++ b ++ c ++ d : Word32) 0 = a ∧ wordByte (a ++ b ++ c ++ d : Word32) 1 = b ∧
    wordByte (a ++ b ++ c ++ d : Word32) 2 = c ∧ wordByte (a ++ b ++ c ++ d : Word32) 3 = d := by
  refine ⟨?_, ?_, ?_, ?_⟩ <;>
  · apply BitVec.eq_of_getLsbD_eq
    intro i hi
    simp only [wordByte, BitVec.getLsbD_append, BitVec.getLsbD_setWidth,
      BitVec.getLsbD_ushiftRight]
    simp [hi, show ¬ 24 + i < 8 by omega, show ¬ 24 + i - 8 < 8 by omega,
      show ¬ 24 + i - 8 - 8 < 8 by omega, show 24 + i - 8 - 8 - 8 = i by omega,
      show ¬ 16 + i < 8 by omega, show ¬ 16 + i - 8 < 8 by omega,
      show 16 + i - 8 - 8 = i by omega, show ¬ 8 + i < 8 by omega, show 8 + i - 8 = i by omega]

/-- Bytewise maps compose. -/
theorem mapBytes_mapBytes (f g : Byte → Byte) (x : Word32) :
    mapBytes f (mapBytes g x) = mapBytes (fun b => f (g b)) x := by
  obtain ⟨h0, h1, h2, h3⟩ := wordByte_append (g (wordByte x 0)) (g (wordByte x 1))
    (g (wordByte x 2)) (g (wordByte x 3))
  simp only [mapBytes, h0, h1, h2, h3]

/-- Bytewise maps of functions that agree agree. -/
theorem mapBytes_congr {f g : Byte → Byte} (h : ∀ b, f b = g b) (x : Word32) :
    mapBytes f x = mapBytes g x := by
  rw [funext h]

/-- Packing and unpacking the words of a Block (`40_sm4_primitives.md` R108). -/
theorem wordsOfBlock_blockOfWords (w : Words) : wordsOfBlock (blockOfWords w) = w := by
  obtain ⟨a, b, c, d⟩ := w
  simp only [wordsOfBlock, blockOfWords, Words.mk.injEq]
  refine ⟨?_, ?_, ?_, ?_⟩ <;>
  · apply BitVec.eq_of_getLsbD_eq
    intro i hi
    simp only [BitVec.getLsbD_extractLsb', BitVec.getLsbD_append]
    simp [hi, show ¬ 96 + i < 32 by omega, show ¬ 96 + i - 32 < 32 by omega,
      show ¬ 96 + i - 32 - 32 < 32 by omega, show 96 + i - 32 - 32 - 32 = i by omega,
      show ¬ 64 + i < 32 by omega, show ¬ 64 + i - 32 < 32 by omega,
      show 64 + i - 32 - 32 = i by omega, show ¬ 32 + i < 32 by omega,
      show 32 + i - 32 = i by omega]

end Sys2Proof.Machine
end

