-- ==== Sys2Proof/Tests/Slice0.lean ====
section
/-! SUPPORT. The model's own tests: ill-formed terms are refused, the words of the opcode table decode, and
each command on the values of `95_test_vectors.md`, one step each. -/

namespace Sys2Proof.Tests

open Sys2Proof.Machine

set_option Elab.async false

/-! Well-formedness: an ill-formed term for each check. -/

theorem test_wf_offset_aligned : windowOffsetWf 0x004 = false := by decide
theorem test_wf_offset_inside : windowOffsetWf 0x200 = false := by decide
theorem test_wf_event_write : hostEventWf (.wr 0x081 0) = false := by decide
theorem test_wf_event_read : hostEventWf (.rd 0x208) = false := by decide
theorem test_wf_range_order : rangeWf ⟨0x2000, 0x1000⟩ = false := by decide
theorem test_wf_range_limit : rangeWf ⟨0, 2 ^ 64 + 1⟩ = false := by decide
theorem test_wf_params : paramsWf { Config.resetParams with ram := [⟨1, 0⟩] } = false := by decide
theorem test_wf_good : hostEventWf (.wr 0x1F8 1) = true ∧ paramsWf Config.resetParams = true := by decide

/-! Decoding: words written bit by bit from `30_encoding.md` R73 and R75 (63:12 | DIR | BK | OPC). -/

theorem test_decode_kexp : decode 0b0_000_00000001 = .ok .kexp := by decide
theorem test_decode_blk : decode 0b0_001_00000010 = .ok .blkSE ∧ decode 0b1_001_00000010 = .ok .blkSD ∧
    decode 0b0_010_00000010 = .ok .blkTE ∧ decode 0b1_010_00000010 = .ok .blkTD := by decide
theorem test_decode_blks_auto_s_t :
    decode 0b0_000_00000011 = .ok .blksAutoE ∧ decode 0b1_000_00000011 = .ok .blksAutoD ∧
    decode 0b0_001_00000011 = .ok .blksSE ∧ decode 0b1_001_00000011 = .ok .blksSD ∧
    decode 0b0_010_00000011 = .ok .blksTE ∧ decode 0b1_010_00000011 = .ok .blksTD := by decide
theorem test_decode_blks_vector :
    decode 0b0_011_00000011 = .ok .blksVaE ∧ decode 0b1_011_00000011 = .ok .blksVaD ∧
    decode 0b0_100_00000011 = .ok .blksVbE ∧ decode 0b1_100_00000011 = .ok .blksVbD := by decide
theorem test_decode_others : decode 0b0_000_00000100 = .ok .gfmul ∧ decode 0b0_000_00000101 = .ok .ghash ∧
    decode 0b0_000_00000110 = .ok .inc32 ∧ decode 0b0_000_00000111 = .ok .gcmenc ∧
    decode 0b0_000_00001000 = .ok .gcmdec := by decide
/-- The reserved words of V10, each refused by name. -/
theorem test_decode_reserved : decode 0x0000 = .error .reservedOpcode ∧ decode 0x0009 = .error .reservedOpcode ∧
    decode 0x0002 = .error .reservedBackend ∧ decode 0x0302 = .error .reservedBackend ∧
    decode 0x0503 = .error .reservedBackend ∧ decode 0x0801 = .error .reservedDirection ∧
    decode 0x0104 = .error .reservedBackend ∧ decode 0x1001 = .error .reservedBits ∧
    decode 0x8000000000000001 = .error .reservedBits := by decide
/-- The words of `spec/opcode_table.json`. -/
theorem test_encode_table :
    [Instr.kexp, .blkSE, .blkSD, .blkTE, .blkTD, .blksAutoE, .blksAutoD, .blksSE, .blksSD, .blksTE, .blksTD,
      .blksVaE, .blksVaD, .blksVbE, .blksVbD, .gfmul, .ghash, .inc32, .gcmenc, .gcmdec].map encode =
    [0x0001, 0x0102, 0x0902, 0x0202, 0x0A02, 0x0003, 0x0803, 0x0103, 0x0903, 0x0203, 0x0A03,
      0x0303, 0x0B03, 0x0403, 0x0C03, 0x0004, 0x0005, 0x0006, 0x0007, 0x0008] := by decide +kernel
theorem test_table_word : decodeTableWord 64 0x0A03 = some .blksTD ∧ decodeTableWord 64 0x1001 = none := by
  decide

/-! The primitives. -/

/-- V5. -/
theorem test_primitives : linL 0x18e992b1 = 0x26d99622 ∧ linLp 0x00000001 = 0x00802001 ∧
    tau 0xf002c39e = 0x18e992b1 ∧ roundT 0x01234567 = 0x6ef180c9 ∧ roundTp 0 = 0x67676767 ∧
    sbox 0x71 = 0 ∧ sbox 0xff = 0x48 ∧ ck 9 = 0xfc030a11 ∧ ck 31 = 0x646b7279 := by decide +kernel
/-- `42_block_scalar_table.md` R137: the first entries of the four tables and the last of the first. -/
theorem test_tables : tab 0 0 = 0x8ed55b5b ∧ tab 1 0 = 0x5b8ed55b ∧ tab 2 0 = 0x5b5b8ed5 ∧
    tab 3 0 = 0xd55b5b8e ∧ tab 0 0xff = 0x68492121 ∧ tab 2 3 = 0xfbfb06fd := by decide +kernel
/-- V9. -/
theorem test_vector_bytes : affineApply affine1 0xef = 0x7b ∧ pbox 0x7b = 0x21 ∧
    affineApply affine2 0x21 = 0x84 ∧ invP 0x7b = 0x06 ∧ affineApply affine3 0x06 = 0x84 ∧
    invP 0x53 = 0xca := by decide +kernel
/-- V11. -/
theorem test_gfmul_integers : gfMul 0x80000000000000000000000000000000 0x2 = 0x87 ∧
    gfMul 0xffffffffffffffffffffffffffffffff 0xffffffffffffffffffffffffffffffff =
      0x5555555555555555555555555555402f ∧
    gfMul 0x0123456789abcdeffedcba9876543210 0x2677f46b09c122cc975533105bd4a22a =
      0x795de46638f3aadb1972722c32a5597b := by decide +kernel
/-- V15. -/
theorem test_lenBlock : lenBlock 20 33 = 0x00000000000000a00000000000000108 ∧
    lenBlock (2 ^ 61) (2 ^ 61 + 1) = 8 := by decide +kernel

/-! A small machine: `RAM = [0x1000, 0x3000)` as in `95_test_vectors.md` section 5. -/

/-- The key of DOC section 8. -/
def key8 : Block := 0x0123456789abcdeffedcba9876543210

/-- The argument registers from `X[i]` on. -/
def withArgs : Nat → List Word64 → State → State
  | _, [], s => s
  | i, v :: vs, s => withArgs (i + 1) vs (setX (Fin.ofNat 16 i) v s)

/-- The reset state with `RAM = [0x1000, 0x3000)`, both vector units, these arguments, and these bytes
stored by the host. -/
def machine (args : List Word64) (bytes : List (Nat × List Byte)) : State :=
  withArgs 0 args
    { State.reset with
      params := { Config.resetParams with ram := [⟨0x1000, 0x3000⟩] }
      mem := bytes.foldl (fun m b => memWriteBytes m b.1 b.2) [] }

/-- The machine with the schedule of the key of DOC section 8 in its bank. -/
def keyed (args : List Word64) (bytes : List (Nat × List Byte)) : State :=
  loadBank (keySchedule key8) (machine args bytes)

/-- What a next state shows. -/
def seen {α : Type} (r : Result) (f : State → α) : Option α :=
  match r with
  | .next t => some (f t)
  | .fault _ => none
  | .refused _ => none

/-- The Block at an address and STATUS. -/
def blockAndStatus (a : Nat) (t : State) : Block × Word64 := (readBlock t ⟨a, 16⟩, statusWord t)

/-- V1. -/
theorem test_kexp : seen (exec .kexp (machine [0x1000, 16] [(0x1000, bytesOfBlock key8)]))
    (fun t => (rkrWord t 0, rkrWord t 1, rkrWord t 31, statusWord t)) =
    some (0xf12186f9, 0x41662b61, 0x9124a012, 0x10000) := by decide +kernel
/-- V3: the length is compared on all 64 bits, and the old key stays. -/
theorem test_kexp_length : seen (exec .kexp (keyed [0x1000, 0x100000010] []))
    (fun t => (rkrWord t 0, statusWord t)) = some (0xf12186f9, 0x10001) := by decide +kernel
/-- V6. -/
theorem test_blkSE : seen (exec .blkSE (keyed [0x1010, 0x1020] [(0x1010, bytesOfBlock key8)]))
    (blockAndStatus 0x1020) = some (0x681edf34d206965e86b3e94f536e4246, 0x10100) := by decide +kernel
/-- V6, in place. -/
theorem test_blkSE_in_place : seen (exec .blkSE (keyed [0x1010, 0x1010] [(0x1010, List.replicate 16 0xff)]))
    (blockAndStatus 0x1010) = some (0x6811af7e097364e786fb45ce5d9a60f0, 0x10100) := by decide +kernel
/-- V10. -/
theorem test_blkSE_noKey : seen (exec .blkSE (machine [0, 0] [])) statusWord = some 0x00005 := by
  decide +kernel
theorem test_blkSD : seen (exec .blkSD (keyed [0x1010, 0x1020]
    [(0x1010, bytesOfBlock 0x681edf34d206965e86b3e94f536e4246)])) (blockAndStatus 0x1020) =
    some (key8, 0x10100) := by decide +kernel
theorem test_blkTE : seen (exec .blkTE (keyed [0x1010, 0x1020] [(0x1010, bytesOfBlock key8)]))
    (blockAndStatus 0x1020) = some (0x681edf34d206965e86b3e94f536e4246, 0x10200) := by decide +kernel
theorem test_blkTD : seen (exec .blkTD (keyed [0x1010, 0x1020] [])) (blockAndStatus 0x1020) =
    some (0xf7d6b57ed4ba6ae1a630fac4505c98a0, 0x10200) := by decide +kernel

/-- The first two input blocks of V8. -/
def twoBlocks : List Byte :=
  bytesOfBlocks [0x000102030405060708090a0b0c0d0e0f, 0x1112131415161718191a1b1c1d1e1f20]

/-- Their images (V8). -/
def twoImages : List Byte :=
  bytesOfBlocks [0x06989c613da668ad2a8df782e1a8f96a, 0xbd7b374d8df254e7b90c3bf03c814f7e]

/-- The first two Blocks at 0x1200 and STATUS. -/
def pairAndStatus (t : State) : List Byte × Word64 := (readBuffer t ⟨0x1200, 32⟩, statusWord t)

/-- V7: fewer than four blocks go to VectorCoreA. -/
theorem test_blksAutoE : seen (exec .blksAutoE (keyed [0x1100, 0x1200, 2] [(0x1100, twoBlocks)]))
    pairAndStatus = some (twoImages, 0x10400) := by decide +kernel
theorem test_blksAutoD : seen (exec .blksAutoD (keyed [0x1100, 0x1200, 2] [(0x1100, twoImages)]))
    pairAndStatus = some (twoBlocks, 0x10400) := by decide +kernel
theorem test_blksSE : seen (exec .blksSE (keyed [0x1100, 0x1200, 2] [(0x1100, twoBlocks)]))
    pairAndStatus = some (twoImages, 0x10100) := by decide +kernel
theorem test_blksSD : seen (exec .blksSD (keyed [0x1100, 0x1200, 2] [(0x1100, twoImages)]))
    pairAndStatus = some (twoBlocks, 0x10100) := by decide +kernel
/-- V8, overlap: both inputs are read before the first output byte is written. -/
theorem test_blksTE_overlap : seen (exec .blksTE (keyed [0x1100, 0x1108, 2]
    [(0x1100, twoBlocks), (0x1120, List.replicate 16 0xee)])) (fun t => readBuffer t ⟨0x1100, 48⟩) =
    some ([0, 1, 2, 3, 4, 5, 6, 7] ++ twoImages ++ List.replicate 8 0xee) := by decide +kernel
theorem test_blksTD : seen (exec .blksTD (keyed [0x1100, 0x1200, 2] [(0x1100, twoImages)]))
    pairAndStatus = some (twoBlocks, 0x10200) := by decide +kernel
theorem test_blksVaE : seen (exec .blksVaE (keyed [0x1100, 0x1200, 2] [(0x1100, twoBlocks)]))
    pairAndStatus = some (twoImages, 0x10400) := by decide +kernel
theorem test_blksVaD : seen (exec .blksVaD (keyed [0x1100, 0x1200, 2] [(0x1100, twoImages)]))
    pairAndStatus = some (twoBlocks, 0x10400) := by decide +kernel
/-- V8: one group of four through VectorCoreB. -/
theorem test_blksVbE : seen (exec .blksVbE (keyed [0x1100, 0x1200, 4] [(0x1100, bytesOfBlocks
      [key8, 0, 0xffffffffffffffffffffffffffffffff, 0x000102030405060708090a0b0c0d0e0f])]))
    (fun t => (readBuffer t ⟨0x1200, 64⟩, statusWord t)) = some (bytesOfBlocks
      [0x681edf34d206965e86b3e94f536e4246, 0x2677f46b09c122cc975533105bd4a22a,
       0x6811af7e097364e786fb45ce5d9a60f0, 0x06989c613da668ad2a8df782e1a8f96a], 0x10800) := by
  decide +kernel
/-- V7: five blocks, four through VectorCoreB and one through VectorCoreA. -/
theorem test_blksVbD_used : seen (exec .blksVbD (keyed [0x1100, 0x1200, 5] [])) statusWord =
    some 0x10C00 := by decide +kernel
/-- V7: no blocks, nothing checked. -/
theorem test_blksVbD_none : seen (exec .blksVbD (keyed [0, 0, 0] [])) statusWord = some 0x10000 := by
  decide +kernel

/-- V12, `REFLECTED`. -/
theorem test_gfmul : seen (exec .gfmul (machine [0x1000, 0x1010, 0x1020] [(0x1000, bytesOfBlock key8),
      (0x1010, bytesOfBlock 0x2677f46b09c122cc975533105bd4a22a)])) (blockAndStatus 0x1020) =
    some (0x6ded580461308b747cf146b29e828560, 0) := by decide +kernel
/-- V12: `REFLECTED` and `NATURAL` differ. -/
theorem test_gfmul_orders :
    gfMulBlk .reflected 0x40000000000000000000000000000000 1 = 0xe1000000000000000000000000000000 ∧
    gfMulBlk .natural 2 0x80000000000000000000000000000000 = 0x87 := by decide +kernel
/-- V14: AAD and data of 20 and 33 bytes, each padded on its own. -/
theorem test_ghash : seen (exec .ghash (machine [0x1000, 0x1100, 20, 0x1200, 33, 0x1300]
      [(0x1000, bytesOfBlock 0x2677f46b09c122cc975533105bd4a22a),
       (0x1100, (List.range 20).map (BitVec.ofNat 8)),
       (0x1200, (List.range 33).map (fun k => BitVec.ofNat 8 (0x40 + k)))])) (blockAndStatus 0x1300) =
    some (0xfd3153da7ffb3344585b74fd162a4d2d, 0) := by decide +kernel
/-- V18: with both lengths zero the addresses are not checked. -/
theorem test_ghash_empty : seen (exec .ghash (machine [0x1000, 0, 0, 0, 0, 0x1300]
      [(0x1000, bytesOfBlock key8)])) (blockAndStatus 0x1300) = some (0, 0) := by decide +kernel
/-- V16. -/
theorem test_inc32 : seen (exec .inc32 (machine [0x1000, 0x1010]
      [(0x1000, bytesOfBlock 0x000102030405060708090a0bffffffff)])) (blockAndStatus 0x1010) =
    some (0x000102030405060708090a0b00000000, 0) := by decide +kernel
/-- V16: the counter is big-endian. -/
theorem test_inc32_carry : inc32Of 0x00000000000000000000000000ffffff = 0x01000000 := by decide

/-- The arguments of P3. -/
def gcmArgs (inp out tagLen : Word64) : List Word64 :=
  [0x1000, 16, 0x1010, 12, 0x1020, 1, inp, 17, out, 0x1070, tagLen]

/-- The key, IV and AAD of `48_gcm.md` R246. -/
def gcmBytes : List (Nat × List Byte) :=
  [(0x1000, bytesOfBlock key8), (0x1010, (List.range 12).map (BitVec.ofNat 8)), (0x1020, [0xaa])]

/-- The plaintext of `48_gcm.md` R246. -/
def plain17 : List Byte := (List.range 17).map (fun k => BitVec.ofNat 8 (0x30 + k))

/-- The ciphertext of `48_gcm.md` R246. -/
def cipher17 : List Byte := bytesOfBlock 0x65102aa285849f285cb9b990e761586a ++ [0xc8]

/-- The tag of `48_gcm.md` R246. -/
def tag16 : Block := 0x06011ef1f40c23d754928bd92cbb2d21

/-- P3 step 1. -/
theorem test_gcmenc : seen (exec .gcmenc (machine (gcmArgs 0x1030 0x1050 16) (gcmBytes ++ [(0x1030, plain17)])))
    (fun t => (readBuffer t ⟨0x1050, 17⟩, readBlock t ⟨0x1070, 16⟩, statusWord t, rkrWord t 0)) =
    some (cipher17, tag16, 0x10000, 0xf12186f9) := by decide +kernel
/-- V17: a wrong key length wins over a wrong IV length and tag length, and no buffer is checked. -/
theorem test_gcmenc_lengths : seen (exec .gcmenc (machine [0, 15, 0, 7, 0, 0, 0, 0, 0, 0, 3] [])) statusWord =
    some 1 ∧ seen (exec .gcmenc (machine [0, 16, 0, 7, 0, 0, 0, 0, 0, 0, 3] [])) statusWord = some 2 ∧
    seen (exec .gcmenc (machine [0, 16, 0, 8, 0, 0, 0, 0, 0, 0, 17] [])) statusWord = some 3 := by
  decide +kernel
/-- P3 step 6: only `X10` tag bytes are read. -/
theorem test_gcmdec : seen (exec .gcmdec (machine (gcmArgs 0x1050 0x1080 4)
      (gcmBytes ++ [(0x1050, cipher17), (0x1070, [0x06, 0x01, 0x1e, 0xf1, 0x55])])))
    (fun t => (readBuffer t ⟨0x1080, 17⟩, statusWord t)) = some (plain17, 0x10000) := by decide +kernel
/-- P3 step 4: a forged tag leaves zeros. -/
theorem test_gcmdec_forged : seen (exec .gcmdec (machine (gcmArgs 0x1050 0x1080 16)
      (gcmBytes ++ [(0x1050, cipher17), (0x1070, bytesOfBlock 0x07011ef1f40c23d754928bd92cbb2d21),
        (0x1080, List.replicate 18 0xee)])))
    (fun t => (readBuffer t ⟨0x1080, 18⟩, statusWord t)) =
    some (List.replicate 17 0 ++ [0xee], 0x10004) := by decide +kernel
/-- V23: an IV of 8 bytes. -/
theorem test_j0_ghash : gcmJ0 .reflected 0x2677f46b09c122cc975533105bd4a22a
    ((List.range 8).map (BitVec.ofNat 8)) = 0x36a78d10d7eadb44822c8b3e596d645c := by decide +kernel

/-! Faults (`95_test_vectors.md` section 6). -/

theorem test_fault_end_of_ram : exec .blksSE (keyed [0x2ff8, 0x1100, 1] []) = .fault .bufferFault := by rfl
theorem test_fault_wide_count : exec .blksAutoE (keyed [0x1000, 0x1000, 0x1000000000000000] []) =
    .fault .bufferFault := by rfl

/-- `49_arithmetic_and_absent_families.md` R223: `2^60` blocks are inaccessible even where `RAM` is all of
`MEM`. -/
theorem test_fault_whole_memory : exec .blksTE (withArgs 0 [0, 0, 0x1000000000000000]
    (loadBank (keySchedule key8) State.reset)) = .fault .bufferFault := by rfl
/-- A block at the last 16 addresses of `MEM` is accessible. -/
theorem test_last_block : seen (exec .inc32 (withArgs 0 [0xfffffffffffffff0, 0x1000] State.reset))
    (blockAndStatus 0x1000) = some (1, 0) := by decide +kernel

/-! The register window: one step each. -/

/-- The step after the host's event `e` is put first. -/
def stepOn (e : HostEvent) (s : State) : Result := step { s with pending := [e] }

/-- V28. -/
theorem test_wr_x : seen (stepOn (.wr 0x098 0xfedcba9876543210) State.reset) (fun t => t.x.toList) =
    some ([0, 0, 0, 0xfedcba9876543210] ++ List.replicate 12 0) := by decide +kernel
/-- V28. -/
theorem test_rd : seen (stepOn (.rd 0x1F8) (keyed [] [])) (fun t => t.returned) = some [0x9124a012] ∧
    seen (stepOn (.rd 0x010) State.reset) (fun t => t.returned) = some [3] ∧
    seen (stepOn (.rd 0x008) (keyed [] [])) (fun t => t.returned) = some [0x10000] := by decide +kernel
/-- V28: a read-only register does not change. -/
theorem test_wr_readonly : seen (stepOn (.wr 0x008 0xffff) State.reset) id = some State.reset := by
  decide +kernel
theorem test_wr_misaligned : stepOn (.wr 0x084 1) State.reset = .refused (.notATransaction 0x084) := by rfl
/-- V10: a reserved encoding. -/
theorem test_illegal : seen (stepOn (.wr 0x000 0x0502) (keyed [] [])) statusWord = some 0x10006 := by
  decide +kernel
/-- V29. -/
theorem test_reset : seen (stepOn .reset (keyed [1, 2, 3] [(0x1000, [7])]))
    (fun t => (t.x.toList.all (· == 0), rkrWord t 0, statusWord t, memRead t.mem 0x1000)) =
    some (true, 0, 0, 7) := by decide +kernel
/-- The first instruction after reset. -/
theorem test_withFetchWord : seen (step (State.reset.withFetchWord 64 0x0103)) statusWord = some 5 := by
  decide +kernel

/-! Witnesses: for each obligation with hypotheses, concrete values that meet them, at the boundaries of
each clause. -/

open Sys2Proof.Safety

theorem seen_next {α : Type} {r : Result} {f : State → α} {v : α} (h : seen r f = some v) :
    ∃ t, r = .next t ∧ f t = v := by
  cases r with
  | next t => exact ⟨t, rfl, Option.some.inj h⟩
  | fault _ | refused _ => cases h

/-- INC32 from the first to the last block of `RAM`. -/
def incState : State := keyed [0x1000, 0x2ff0] [(0x1000, bytesOfBlock 0xffffffff)]
/-- BLK.* into the last block of `RAM`. -/
def blkState : State := keyed [0x1000, 0x2ff0] []
/-- BLK.* one byte too high. -/
def blkHigh : State := keyed [0x1000, 0x2ff1] []
/-- BLK.* one byte too low. -/
def blkLow : State := keyed [0x0fff, 0x1000] []
/-- The messages of `48_gcm.md` R246 before GCMENC. -/
def encState : State := machine (gcmArgs 0x1030 0x1050 16) (gcmBytes ++ [(0x1030, plain17)])
/-- The same before GCMDEC, with this tag. -/
def decState (tag : Block) : State :=
  machine (gcmArgs 0x1050 0x1080 16) (gcmBytes ++ [(0x1050, cipher17), (0x1070, bytesOfBlock tag)])
/-- A GCM command with these IV and tag lengths, every buffer from 0x1000 on. -/
def gcmLens (iv tag : Word64) : State :=
  machine [0x1000, 16, 0x1000, iv, 0x1000, 0, 0x1000, 0, 0x1000, 0x1000, tag] []
/-- The machine with the host's events `es` next. -/
def hostState (es : List HostEvent) : State := { keyed [] [] with pending := es }

/-- The condition of `30_encoding.md` R77. -/
abbrev reservedWord (w : Word64) : Prop :=
  2 ^ 12 ≤ w.toNat ∨ w.toNat % 256 = 0 ∨ 9 ≤ w.toNat % 256 ∨ 5 ≤ w.toNat / 256 % 8 ∨
  (w.toNat % 256 = 2 ∧ (w.toNat / 256 % 8 = 0 ∨ w.toNat / 256 % 8 = 3 ∨ w.toNat / 256 % 8 = 4)) ∨
  (w.toNat % 256 ≠ 2 ∧ w.toNat % 256 ≠ 3 ∧ (w.toNat / 256 % 8 ≠ 0 ∨ w.toNat / 2048 % 2 ≠ 0))

/-- Each clause of R77 at its boundary words, and words on the other side. -/
theorem witness_ReservedEncodingsRaiseIllegalCommand :
    [0x1001, 0x0000, 0x0009, 0x00ff, 0x0503, 0x0703, 0x0002, 0x0302, 0x0402, 0x0101, 0x0801].all
      (fun w => decide (reservedWord w)) = true ∧
    [0x0001, 0x0008, 0x0C03, 0x0102, 0x0A02].all (fun w => decide (¬ reservedWord w)) = true ∧
    (hostState [.wr 0x000 0x1001]).pending = [.wr 0x000 0x1001] := by
  decide +kernel
theorem witness_StepRunsDecodedCommand :
    (hostState [.wr 0x000 0x0C03]).pending = .wr 0x000 0x0C03 :: [] ∧ decode 0x0C03 = .ok .blksVbD := by
  decide +kernel
theorem witness_IdleStepKeepsState : incState.pending = [] := by decide +kernel
/-- The slots at the ends of each clause read as it says. -/
theorem witness_WindowTransactions :
    [0x000, 0x008, 0x010, 0x018, 0x078, 0x080, 0x0F8, 0x100, 0x1F8].map
      (fun off => seen (stepOn (.rd off) (withArgs 15 [9] (keyed [7] []))) (fun t => t.returned)) =
    [0, 0x10000, 3, 0, 0, 7, 9, 0xf12186f9, 0x9124a012].map (fun v => some [v]) ∧
    [0x008, 0x078, 0x100, 0x1F8].all (fun off =>
      seen (stepOn (.wr off 5) (keyed [7] [])) id == some (keyed [7] [])) = true ∧
    [0x001, 0x1FC, 0x200].all (fun off => (windowReg off).isNone) = true := by
  decide +kernel
theorem witness_ResetClearsRegisters :
    (hostState [.reset, .rd 0x010]).pending = .reset :: [.rd 0x010] := by decide +kernel
theorem witness_StepKeepsInvariant :
    Inv (hostState [.wr 0x080 5]) ∧ ∃ t, step (hostState [.wr 0x080 5]) = .next t := by
  refine ⟨⟨by decide +kernel, by decide +kernel, by decide +kernel, by decide +kernel,
    fun _ => ⟨key8, by decide +kernel⟩, fun h => ?_, fun h => ?_, by decide +kernel⟩, ?_⟩
  · exact absurd h (by decide +kernel)
  · exact absurd h (by decide +kernel)
  · obtain ⟨t, h, _⟩ := seen_next (f := statusWord) (v := 0x10000)
      (show seen (step (hostState [.wr 0x080 5])) statusWord = some 0x10000 by decide +kernel)
    exact ⟨t, h⟩
theorem witness_StepKeepsParameters : ∃ t, step (hostState [.reset]) = .next t :=
  ⟨resetEvent (hostState []), rfl⟩
/-- One state of each kind of stop. -/
theorem witness_OnlyBufferBreachStops :
    step { blkHigh with pending := [.wr 0x000 0x0102] } = .fault .bufferFault ∧
    step (hostState [.rd 0x200]) = .refused (.notATransaction 0x200) ∧
    step (hostState [.wr 0x004 0]) = .refused (.notATransaction 0x004) := ⟨rfl, rfl, rfl⟩
/-- Passed and accessible up to both ends of `RAM`; passed and not accessible on either side of it;
not passed. -/
theorem witness_CommandsAnswerByPhase :
    (ChecksPass .blkSE blkState ∧ ∀ b ∈ namedBuffers .blkSE blkState, Reachable blkState.params b) ∧
    (ChecksPass .blkSE blkHigh ∧ ¬ ∀ b ∈ namedBuffers .blkSE blkHigh, Reachable blkHigh.params b) ∧
    (ChecksPass .blkSE blkLow ∧ ¬ ∀ b ∈ namedBuffers .blkSE blkLow, Reachable blkLow.params b) ∧
    ¬ ChecksPass .blkSE State.reset := by
  simp only [ChecksPass]; decide +kernel
theorem witness_ErrorCodesByCommand : ∃ t, exec .gcmdec (decState 0) = .next t ∧ t.err = 4 :=
  seen_next (by decide +kernel)
theorem witness_ErrorsChangeNothingElse :
    (∀ i, decode 0x0002 ≠ .ok i) ∧
    (∃ t, exec .kexp State.reset = .next t ∧ t.err = 1) ∧
    (∃ t, exec .gcmdec (decState 0) = .next t ∧ t.err = 4) ∧ Memory.wf (decState 0).mem = true :=
  ⟨fun i h => (by cases i <;> cases h), seen_next (by decide +kernel), seen_next (by decide +kernel),
    by decide +kernel⟩
theorem witness_CommandFrame :
    (∃ t, exec .inc32 incState = .next t ∧ t.err = 0) ∧ writesBank .inc32 = false ∧
    ∃ t, exec .gcmenc encState = .next t ∧ t.err = 0 :=
  ⟨seen_next (by decide +kernel), rfl, seen_next (by decide +kernel)⟩
theorem witness_CommandsReadOnlyNamedRegisters :
    (∀ r ∈ readRegs .inc32, (incState.x.set 2 7).get r = incState.x.get r) ∧
    incState.x.set 2 7 ≠ incState.x := by decide +kernel
theorem witness_FlagsWrittenNotRead :
    (∃ t, exec .inc32 incState = .next t ∧ t.err = 0) ∧ needsKey .inc32 = false ∧
    (∃ t, exec .blkTD State.reset = .next t ∧ t.err = 5) ∧ needsKey .blkTD = true :=
  ⟨seen_next (by decide +kernel), rfl, seen_next (by decide +kernel), rfl⟩
theorem witness_KeylessCommandsIgnoreBank :
    (needsKey .inc32 = false ∧ writesBank .inc32 = false ∧ ∃ t, exec .inc32 incState = .next t ∧ t.err = 0) ∧
    (needsKey .gcmenc = false ∧ writesBank .gcmenc = true ∧
      ∃ t, exec .gcmenc encState = .next t ∧ t.err = 0) :=
  ⟨⟨rfl, rfl, seen_next (by decide +kernel)⟩, rfl, rfl, seen_next (by decide +kernel)⟩
theorem witness_BankUnchangedOrSchedule :
    (∃ t, exec .kexp (keyed [0x1000, 16] []) = .next t ∧ rkrWord t 0 ≠ 0xf12186f9) ∧
    ∃ t, exec .kexp (keyed [0x1000, 17] []) = .next t ∧ rkrWord t 0 = 0xf12186f9 := by
  refine ⟨?_, seen_next (by decide +kernel)⟩
  obtain ⟨t, h, hv⟩ := seen_next (v := false)
    (show seen (exec .kexp (keyed [0x1000, 16] [])) (fun t => rkrWord t 0 == 0xf12186f9) = some false by
      decide +kernel)
  exact ⟨t, h, fun e => by simp [e] at hv⟩
theorem witness_MissingKeyRaisesNoKey :
    (needsKey .blksVbD = true ∧ State.reset.rkv = false) ∧
    ((hostState [.wr 0x080 1]).rkv = true ∧ (hostState [.wr 0x080 1]).pending.head? ≠ some .reset ∧
      ∃ t, step (hostState [.wr 0x080 1]) = .next t ∧ t.err = 0) ∧
    (blkState.rkv = true ∧ ∃ t, exec .blkSE blkState = .next t ∧ t.err = 0) ∧
    (writesBank .gcmdec = true ∧ ∃ t, exec .gcmdec (decState 0) = .next t ∧ t.err = 4) :=
  ⟨by decide +kernel, ⟨by decide +kernel, by decide +kernel, seen_next (by decide +kernel)⟩,
    ⟨by decide +kernel, seen_next (by decide +kernel)⟩, rfl, seen_next (by decide +kernel)⟩
theorem witness_CapabilitiesChangeOnlyBkused :
    (∃ t, exec .blksVaE (keyed [0x1000, 0x1000, 1] []) = .next t ∧ t.bkused = 4) ∧
    exec .blksVaE (keyed [0x1000, 0x2ff1, 1] []) = .fault .bufferFault :=
  ⟨seen_next (by decide +kernel), rfl⟩
/-- The written bytes are at 5 and 6: the addresses next to them, and a byte cleared again. -/
theorem witness_MemoryReadsWhatWasWritten : Memory.wf [(5, 1)] = true ∧
    memWriteBytes [(5, 1)] 5 [0, 2] = [(6, 2)] ∧ memRead [(5, 1)] 4 = 0 ∧ memRead [(5, 1)] 7 = 0 ∧
    (4 < 5 ∨ 5 + ([0, 2] : List Byte).length ≤ 4) ∧ (7 < 5 ∨ 5 + ([0, 2] : List Byte).length ≤ 7) := by
  decide +kernel
theorem witness_KexpLoadsKeySchedule :
    [0, 15, 17, 0x100000010, 0xffffffffffffffff].all
      (fun n => decide (xval (machine [0x1000, n] []) 1 ≠ 16)) = true ∧
    (xval (machine [0x2ff0, 16] []) 1 = 16 ∧
      Reachable (machine [0x2ff0, 16] []).params ⟨xval (machine [0x2ff0, 16] []) 0, 16⟩) ∧
    [0x2ff1, 0x0fff, 0xfffffffffffffff8].all (fun a => decide (xval (machine [a, 16] []) 1 = 16 ∧
      ¬ Reachable (machine [a, 16] []).params ⟨xval (machine [a, 16] []) 0, 16⟩)) = true := by
  decide +kernel
/-- Both cases of the inversion. -/
theorem witness_SboxAlgebraicForm :
    (∃ b y : Byte, affineApply affineS b = 0 ∧ y = 0) ∧
    ∃ b y : Byte, affineApply affineS b ≠ 0 ∧ gf8Mul polyS (affineApply affineS b) y = 1 :=
  ⟨⟨117, 0, by decide +kernel⟩, ⟨240, 1, by decide +kernel⟩⟩
theorem witness_DiffusionLaws : wordByte 0x11223344 3 = wordByte 0x55667744 3 ∧ (3 : Nat) < 4 ∧
    tau (0x00000001 ||| 0x00000002) ≠ tau 0x00000001 ||| tau 0x00000002 := by decide +kernel
theorem witness_BlkTransformsOneBlock :
    (∀ w ∈ ([0x0102, 0x0902, 0x0202, 0x0A02] : List Word64), ∃ i ks used,
      (w, i, ks, used) ∈ [((0x0102 : Word64), Instr.blkSE, blkState.rk.toList, (1 : BitVec 4)),
        (0x0902, .blkSD, blkState.rk.toList.reverse, 1), (0x0202, .blkTE, blkState.rk.toList, 2),
        (0x0A02, .blkTD, blkState.rk.toList.reverse, 2)]) ∧
    State.reset.rkv = false ∧
    (blkHigh.rkv = true ∧ ¬ (Reachable blkHigh.params ⟨xval blkHigh 0, 16⟩ ∧
      Reachable blkHigh.params ⟨xval blkHigh 1, 16⟩)) ∧
    (blkState.rkv = true ∧ Reachable blkState.params ⟨xval blkState 0, 16⟩ ∧
      Reachable blkState.params ⟨xval blkState 1, 16⟩ ∧ Memory.wf blkState.mem = true) := by
  refine ⟨fun w hw => ?_, by decide +kernel, by decide +kernel, by decide +kernel⟩
  simp only [List.mem_cons, List.not_mem_nil, or_false] at hw
  rcases hw with rfl | rfl | rfl | rfl
  · exact ⟨_, _, _, List.mem_cons_self⟩
  · exact ⟨_, _, _, .tail _ List.mem_cons_self⟩
  · exact ⟨_, _, _, .tail _ (.tail _ List.mem_cons_self)⟩
  · exact ⟨_, _, _, .tail _ (.tail _ (.tail _ List.mem_cons_self))⟩
/-- Four blocks up to the end of `RAM`, no blocks at an address outside it, and one byte too high. -/
theorem witness_BlksTransformsBlocks :
    (∀ s ∈ [keyed [0x1000, 0x2fc0, 4] [], keyed [0, 0xffffffffffffffff, 0] []], s.rkv = true ∧
      Reachable s.params ⟨xval s 0, 16 * xval s 2⟩ ∧ Reachable s.params ⟨xval s 1, 16 * xval s 2⟩ ∧
      Memory.wf s.mem = true) ∧
    (keyed [0x1000, 0x2fc1, 4] []).rkv = true ∧
    ¬ (Reachable (keyed [0x1000, 0x2fc1, 4] []).params ⟨0x1000, 16 * 4⟩ ∧
      Reachable (keyed [0x1000, 0x2fc1, 4] []).params ⟨0x2fc1, 16 * 4⟩) ∧
    (machine [0x1000, 0x2fc0, 4] []).rkv = false := by decide +kernel
/-- The smallest such count. -/
theorem witness_WideBlockCountFaults : (keyed [0, 0, 0x1000000000000000] []).rkv = true ∧
    2 ^ 60 ≤ xval (keyed [0, 0, 0x1000000000000000] []) 2 ∧
    ¬ 2 ^ 60 ≤ xval (keyed [0, 0, 0x0fffffffffffffff] []) 2 := by decide +kernel
theorem witness_CarrylessProduct : (2 ^ 128 - 1 : Nat) < 2 ^ 128 ∧
    clmul (2 ^ 128 - 1) (2 ^ 128 - 1) < 2 ^ 255 := by decide +kernel
theorem witness_ReduceIsRemainder : (2 ^ 255 - 1 : Nat) < 2 ^ 255 := by decide
theorem witness_BlockElementMaps : (0 : Nat) < 128 ∧ (127 : Nat) < 128 ∧
    (elemOfBlock .reflected 1).getLsbD 127 = true ∧ (elemOfBlock .natural 1).getLsbD 0 = true := by
  decide +kernel
theorem witness_GfmulMultipliesBlocks :
    (∀ b ∈ namedBuffers .gfmul (machine [0x1000, 0x1000, 0x2ff0] []),
      Reachable (machine [0x1000, 0x1000, 0x2ff0] []).params b) ∧
    Memory.wf (machine [0x1000, 0x1000, 0x2ff0] []).mem = true ∧
    ¬ ∀ b ∈ namedBuffers .gfmul (machine [0x1000, 0x1000, 0x2ff1] []),
      Reachable (machine [0x1000, 0x1000, 0x2ff1] []).params b := by decide +kernel
/-- Empty AAD outside `RAM` is accessible, one byte there is not. -/
theorem witness_GhashHashesBuffers :
    (∀ b ∈ namedBuffers .ghash (machine [0x1000, 0, 0, 0x2fdf, 33, 0x2ff0] []),
      Reachable (machine [0x1000, 0, 0, 0x2fdf, 33, 0x2ff0] []).params b) ∧
    Memory.wf (machine [0x1000, 0, 0, 0x2fdf, 33, 0x2ff0] []).mem = true ∧
    ¬ ∀ b ∈ namedBuffers .ghash (machine [0x1000, 0, 1, 0x2fdf, 33, 0x2ff0] []),
      Reachable (machine [0x1000, 0, 1, 0x2fdf, 33, 0x2ff0] []).params b := by decide +kernel
theorem witness_Inc32IncrementsBlock :
    (∀ b ∈ namedBuffers .inc32 incState, Reachable incState.params b) ∧ Memory.wf incState.mem = true ∧
    ¬ ∀ b ∈ namedBuffers .inc32 blkLow, Reachable blkLow.params b := by decide +kernel
theorem witness_InitialCounterBlock : (List.replicate 12 (7 : Byte)).length = 12 ∧
    (List.replicate 8 (7 : Byte)).length ≠ 12 := by decide
theorem witness_CounterModeBytes : 16 < plain17.length ∧ 0 < plain17.length := by decide
theorem witness_TagComparisonIsEquality : ([1, 2, 3, 4] : List Byte).length = 4 ∧
    ([1, 2, 3, 5] : List Byte).length = 4 ∧ tagEqual [1, 2, 3, 4] [1, 2, 3, 5] 4 = false ∧
    tagEqual [1, 2, 3, 4] [1, 2, 3, 4] 4 = true := by decide
/-- Each length on both sides of its range. -/
theorem witness_GcmParameterChecks :
    [15, 17].all (fun n => decide (xval (machine [0, n] []) 1 ≠ 16)) = true ∧
    [7, 1025].all (fun iv => decide (xval (gcmLens iv 3) 1 = 16 ∧
      (xval (gcmLens iv 3) 3 < 8 ∨ 1024 < xval (gcmLens iv 3) 3))) = true ∧
    [(8, 3), (1024, 3), (8, 17), (1024, 17)].all (fun c => decide (xval (gcmLens c.1 c.2) 1 = 16 ∧
      8 ≤ xval (gcmLens c.1 c.2) 3 ∧ xval (gcmLens c.1 c.2) 3 ≤ 1024 ∧
      (xval (gcmLens c.1 c.2) 10 < 4 ∨ 16 < xval (gcmLens c.1 c.2) 10))) = true ∧
    [(8, 4), (1024, 4), (8, 16), (1024, 16)].all (fun c => decide (GcmLengthsOk (gcmLens c.1 c.2))) =
      true := by
  decide +kernel
theorem witness_GcmencEncryptsAndTags :
    (GcmLengthsOk encState ∧ (∀ b ∈ gcmNamed encState, Reachable encState.params b) ∧
      Memory.wf encState.mem = true) ∧
    (GcmLengthsOk (gcmLens 1024 16) ∧
      ∀ b ∈ gcmNamed (gcmLens 1024 16), Reachable (gcmLens 1024 16).params b) ∧
    (GcmLengthsOk (machine (gcmArgs 0 0x1050 16) []) ∧
      ¬ ∀ b ∈ gcmNamed (machine (gcmArgs 0 0x1050 16) []),
        Reachable (machine (gcmArgs 0 0x1050 16) []).params b) ∧
    (16 < 17 ∧ ¬ inBuffer ⟨0x1070, 16⟩ (0x1050 + 16)) := by decide +kernel
/-- A tag that verifies, and one that does not, since it is another. -/
theorem witness_GcmdecVerifiesThenReleases :
    [tag16, 0].all (fun tag => decide (GcmLengthsOk (decState tag) ∧
      (∀ b ∈ gcmNamed (decState tag), Reachable (decState tag).params b) ∧
      Memory.wf (decState tag).mem = true)) = true ∧
    gcmTagOver (decState tag16) (gcmInputBytes (decState tag16)) = bytesOfBlock tag16 ∧
    memReadBytes (decState tag16).mem 0x1070 16 = bytesOfBlock tag16 ∧
    memReadBytes (decState 0).mem 0x1070 16 = bytesOfBlock 0 ∧
    ¬ ∀ b ∈ gcmNamed (machine (gcmArgs 0 0x1050 16) []),
      Reachable (machine (gcmArgs 0 0x1050 16) []).params b := by decide +kernel
theorem witness_GcmRoundTrip :
    Memory.wf encState.mem = true ∧ (∃ t, exec .gcmenc encState = .next t ∧ t.err = 0) ∧
    Apart ⟨xval encState 8, xval encState 7⟩ ⟨xval encState 9, xval encState 10⟩ ∧
    (∀ b ∈ ([⟨xval encState 0, 16⟩, ⟨xval encState 2, xval encState 3⟩,
        ⟨xval encState 4, xval encState 5⟩] : List Buffer),
      Apart b ⟨xval encState 8, xval encState 7⟩ ∧ Apart b ⟨xval encState 9, xval encState 10⟩) ∧
    Reachable encState.params ⟨(0x2fef : Word64).toNat, xval encState 7⟩ :=
  ⟨by decide +kernel, seen_next (by decide +kernel), by decide +kernel, by decide +kernel, by decide +kernel⟩
theorem witness_TamperedTagIsRejected :
    Memory.wf (decState tag16).mem = true ∧ (∃ t, exec .gcmdec (decState tag16) = .next t ∧ t.err = 0) ∧
    15 < xval (decState tag16) 10 ∧ (0xa1 : Byte) ≠ memRead (decState tag16).mem (xval (decState tag16) 9 + 15) ∧
    ∀ c ∈ ([⟨xval (decState tag16) 0, 16⟩, ⟨xval (decState tag16) 2, xval (decState tag16) 3⟩,
        ⟨xval (decState tag16) 4, xval (decState tag16) 5⟩,
        ⟨xval (decState tag16) 6, xval (decState tag16) 7⟩] : List Buffer),
      ¬ inBuffer c (xval (decState tag16) 9 + 15) :=
  ⟨by decide +kernel, seen_next (by decide +kernel), by decide +kernel, by decide +kernel, by decide +kernel⟩

end Sys2Proof.Tests
end

/-! # Commands in one form, and the status flags

Every command is `runCommand` on three things that depend on the command: the check of phase 2, the buffers
it names, the body of phase 4. What a command does to the flags (`10_state.md` R23) is read off the check and
the body. -/

namespace Sys2Proof.Proofs

open Sys2Proof.Machine Sys2Proof.Safety

/-- The outcome of a command's parameter checks, phase 2 of `30_encoding.md` R81. -/
def commandCheck : Instr → State → ErrorKind
  | .kexp => kexpCheck
  | .gfmul | .ghash | .inc32 => fun _ => noCheck
  | .gcmenc | .gcmdec => gcmCheck
  | .blkSE | .blkSD | .blkTE | .blkTD
  | .blksAutoE | .blksAutoD | .blksSE | .blksSD | .blksTE | .blksTD
  | .blksVaE | .blksVaD | .blksVbE | .blksVbD => keyedCheck

/-- What a command computes once its checks have passed, phase 4 of `30_encoding.md` R81. -/
def commandBody : Instr → State → State
  | .kexp => kexpBody
  | .blkSE => blkBody scalarEncrypt .scalarCore
  | .blkSD => blkBody scalarDecrypt .scalarCore
  | .blkTE => blkBody tableEncrypt .tableCore
  | .blkTD => blkBody tableDecrypt .tableCore
  | .blksAutoE => blksBody .auto .encrypt
  | .blksAutoD => blksBody .auto .decrypt
  | .blksSE => blksBody .scalar .encrypt
  | .blksSD => blksBody .scalar .decrypt
  | .blksTE => blksBody .table .encrypt
  | .blksTD => blksBody .table .decrypt
  | .blksVaE => blksBody .vecA .encrypt
  | .blksVaD => blksBody .vecA .decrypt
  | .blksVbE => blksBody .vecB .encrypt
  | .blksVbD => blksBody .vecB .decrypt
  | .gfmul => gfmulBody
  | .ghash => ghashBody
  | .inc32 => inc32Body
  | .gcmenc => gcmencBody
  | .gcmdec => gcmdecBody

/-- Every command runs in the frame of R81; the buffers it checks are those the table of `10_state.md` R21 names. -/
theorem exec_eq_runCommand_of_instr (i : Instr) (s : State) :
    exec i s = runCommand (commandCheck i s) (namedBuffers i s) (commandBody i) s := by
  cases i <;> rfl

section
variable {i : Instr} {s t : State}

theorem exec_next_iff : exec i s = .next t ↔
    (commandCheck i s ≠ .ok ∧ t = raise (commandCheck i s) s) ∨
    (commandCheck i s = .ok ∧ (∀ b ∈ namedBuffers i s, Reachable s.params b) ∧ t = commandBody i s) := by
  rw [exec_eq_runCommand_of_instr, runCommand_next_iff]

/-! ## What the bodies do to the flags -/

theorem gcmdecBody_bkused : (gcmdecBody s).bkused = 0 := by
  unfold gcmdecBody; split <;> rfl

theorem commandBody_bkused (h : needsKey i = false) : (commandBody i s).bkused = 0 := by
  cases i
  case gcmdec => exact gcmdecBody_bkused
  case kexp | gfmul | ghash | inc32 | gcmenc => rfl
  all_goals cases h

theorem commandBody_rkv (h : writesBank i = false) : (commandBody i s).rkv = s.rkv := by
  cases i
  case kexp | gcmenc | gcmdec => cases h
  all_goals simp [commandBody, blkBody, blksBody, gfmulBody, ghashBody, inc32Body]

theorem commandBody_err_of_needsKey (h : needsKey i = true) : (commandBody i s).err = 0 := by
  cases i
  case kexp | gfmul | ghash | inc32 | gcmenc | gcmdec => cases h
  all_goals rfl

theorem commandCheck_of_needsKey (h : needsKey i = true) : commandCheck i s = keyedCheck s := by
  cases i
  case kexp | gfmul | ghash | inc32 | gcmenc | gcmdec => cases h
  all_goals rfl

theorem keyedCheck_of_no_key (h : s.rkv = false) : keyedCheck s = .noKey := if_pos h

/-- What a block command answers (`60_exceptions.md` R266). -/
theorem exec_next_iff_of_needsKey (hk : needsKey i = true) : exec i s = .next t ↔
    (s.rkv = false ∧ t = raise .noKey s) ∨
    (s.rkv = true ∧ (∀ b ∈ namedBuffers i s, Reachable s.params b) ∧ t = commandBody i s) := by
  rw [exec_next_iff, commandCheck_of_needsKey hk, keyedCheck_ok_iff]
  cases hv : s.rkv
  · simp [keyedCheck_of_no_key hv]
  · simp [keyedCheck_ok_iff, hv]

/-! ## No command reads `ERR` or `BKUSED` -/

/-- The state with other values of `ERR` and `BKUSED`. -/
def withFlags (e u : BitVec 4) (s : State) : State := { s with err := e, bkused := u }

variable (e u : BitVec 4)

theorem raise_withFlags (k : ErrorKind) : raise k (withFlags e u s) = raise k s := rfl

theorem accessible_withFlags : accessible (withFlags e u s) = accessible s := rfl

theorem commandCheck_withFlags : commandCheck i (withFlags e u s) = commandCheck i s := by
  cases i <;> rfl

theorem namedBuffers_withFlags : namedBuffers i (withFlags e u s) = namedBuffers i s := by
  cases i <;> rfl

/-- Every body ends with `endCommand`, which writes both flags. -/
theorem commandBody_withFlags : commandBody i (withFlags e u s) = commandBody i s := by
  cases i <;> rfl

theorem exec_withFlags : exec i (withFlags e u s) = exec i s := by
  rw [exec_eq_runCommand_of_instr, exec_eq_runCommand_of_instr, commandCheck_withFlags, namedBuffers_withFlags]
  unfold runCommand
  rw [raise_withFlags, accessible_withFlags, commandBody_withFlags]

end

/-- Settles O17: each part is read off the two ways a command can answer, a raised check and the body. -/
theorem flagsWrittenNotRead : Obligations.FlagsWrittenNotRead := by
  intro i s t h
  refine ⟨fun hk => ?_, fun hw => ?_, fun e u => ?_, fun hk => ?_⟩
  · obtain ⟨-, rfl⟩ | ⟨-, -, rfl⟩ := exec_next_iff.1 h
    · exact raise_bkused s _
    · exact commandBody_bkused hk
  · obtain ⟨-, rfl⟩ | ⟨-, -, rfl⟩ := exec_next_iff.1 h
    · exact raise_rkv s _
    · exact commandBody_rkv hw
  · exact (exec_withFlags e u).trans h
  · obtain ⟨hv, rfl⟩ | ⟨hv, -, rfl⟩ := (exec_next_iff_of_needsKey hk).1 h
    · simp [hv, errorCode]
    · simp [hv, commandBody_err_of_needsKey hk]

end Sys2Proof.Proofs

/-! # The decoder: the words of the 20 commands, and the reserved ones

The decoder is read once, field by field (`decode_ok_iff`). That the 20 words of the encoder are all it
accepts (`30_encoding.md` R75) and which words are reserved (R77) both follow from that. -/

namespace Sys2Proof.Proofs

open Sys2Proof.Machine Sys2Proof.Safety

/-! ## The fields of a word as numbers (`30_encoding.md` R73) -/

section
variable (w : Word64)

theorem opcOf_toNat : (opcOf w).toNat = w.toNat % 256 := by simp [opcOf]

theorem bkOf_toNat : (bkOf w).toNat = w.toNat / 256 % 8 := by
  simp [bkOf, Nat.shiftRight_eq_div_pow]

theorem dirOf_toNat : (dirOf w).toNat = w.toNat / 2048 % 2 := by
  simp [dirOf, Nat.shiftRight_eq_div_pow]

theorem zeroOf_toNat : (zeroOf w).toNat = w.toNat / 4096 := by
  have : w.toNat / 4096 < 2 ^ 52 := by omega
  simpa [zeroOf, Nat.shiftRight_eq_div_pow] using this

theorem zeroOf_eq_zero_iff : zeroOf w = 0 ↔ w.toNat < 2 ^ 12 := by
  have := zeroOf_toNat w
  bv_omega

theorem bkOf_eq_zero_iff : bkOf w = 0 ↔ w.toNat / 256 % 8 = 0 := by
  have := bkOf_toNat w
  bv_omega

theorem dirOf_eq_zero_iff : dirOf w = 0 ↔ w.toNat / 2048 % 2 = 0 := by
  have := dirOf_toNat w
  bv_omega

/-- With bits 63:12 zero, a word is the number its three other fields make. -/
theorem toNat_eq_of_fields (h : zeroOf w = 0) :
    w.toNat = (dirOf w).toNat * 2 ^ 11 + (bkOf w).toNat * 2 ^ 8 + (opcOf w).toNat := by
  rw [zeroOf_eq_zero_iff] at h
  rw [opcOf_toNat, bkOf_toNat, dirOf_toNat]
  omega

end

/-! ## What the decoder accepts -/

/-- The opcodes that have neither `BK` nor `DIR`, with their commands (`30_encoding.md` R75). -/
def plainOpcodes : List (Nat × Instr) :=
  [(0x01, .kexp), (0x04, .gfmul), (0x05, .ghash), (0x06, .inc32), (0x07, .gcmenc), (0x08, .gcmdec)]

section
variable {i j : Instr} {bk : BitVec 3} {dir : BitVec 1} {w : Word64}

theorem decodePlain_ok_iff : decodePlain j bk dir = .ok i ↔ i = j ∧ bk = 0 ∧ dir = 0 := by
  unfold decodePlain
  by_cases hb : bk = 0
  · by_cases hd : dir = 0
    · simp [hb, hd, eq_comm (a := j)]
    · simp only [hb, hd, ne_eq, not_true, not_false_eq_true, if_true, if_false, and_false, reduceCtorEq]
  · simp only [hb, ne_eq, not_false_eq_true, if_true, false_and, and_false, reduceCtorEq]

/-- The decoder, read once: bits 63:12 are zero, and the opcode is a plain one with the other fields zero, or
one of the two whose `BK` and `DIR` are decoded (`30_encoding.md` R76). -/
theorem decode_ok_iff : decode w = .ok i ↔ zeroOf w = 0 ∧
    (((opcOf w).toNat, i) ∈ plainOpcodes ∧ bkOf w = 0 ∧ dirOf w = 0 ∨
      (opcOf w).toNat = 2 ∧ decodeBlk (bkOf w) (dirOf w) = .ok i ∨
      (opcOf w).toNat = 3 ∧ decodeBlks (bkOf w) (dirOf w) = .ok i) := by
  unfold decode
  split_ifs with hz
  · simp only [hz, false_and]
  · rw [not_not] at hz
    simp only [hz, true_and, plainOpcodes]
    split <;> simp_all [decodePlain_ok_iff]

/-! Each of the three forms has the fields of the encoder's word. -/

theorem encode_of_mem_plainOpcodes : ∀ p ∈ plainOpcodes, (encode p.2).toNat = p.1 := by decide

theorem encode_of_decodeBlk (h : decodeBlk bk dir = .ok i) :
    (encode i).toNat = dir.toNat * 2 ^ 11 + bk.toNat * 2 ^ 8 + 2 := by
  have table : ∀ bk dir, (decodeBlk bk dir).toOption.all
      (fun i => (encode i).toNat = dir.toNat * 2 ^ 11 + bk.toNat * 2 ^ 8 + 2) = true := by decide
  simpa [h, Except.toOption] using table bk dir

theorem encode_of_decodeBlks (h : decodeBlks bk dir = .ok i) :
    (encode i).toNat = dir.toNat * 2 ^ 11 + bk.toNat * 2 ^ 8 + 3 := by
  have table : ∀ bk dir, (decodeBlks bk dir).toOption.all
      (fun i => (encode i).toNat = dir.toNat * 2 ^ 11 + bk.toNat * 2 ^ 8 + 3) = true := by decide
  simpa [h, Except.toOption] using table bk dir

theorem eq_encode_of_decode (h : decode w = .ok i) : w = encode i := by
  obtain ⟨hz, hf⟩ := decode_ok_iff.1 h
  apply BitVec.eq_of_toNat_eq
  rw [toNat_eq_of_fields w hz]
  obtain ⟨hp, hb, hd⟩ | ⟨ho, hi⟩ | ⟨ho, hi⟩ := hf
  · simp [encode_of_mem_plainOpcodes _ hp, hb, hd]
  · rw [encode_of_decodeBlk hi, ho]
  · rw [encode_of_decodeBlks hi, ho]

theorem decode_encode (i : Instr) : decode (encode i) = .ok i := by
  cases i <;> rfl

/-- The decoder inverts the encoder and accepts nothing else. -/
theorem decode_ok_iff_eq_encode : decode w = .ok i ↔ w = encode i :=
  ⟨eq_encode_of_decode, fun h => h ▸ decode_encode i⟩

theorem mem_commandTable_iff : (i, w) ∈ commandTable ↔ w = encode i := by
  cases i <;> simp [commandTable] <;> rfl

/-! ## Which words decode -/

/-- The reserved encodings, from the list of `30_encoding.md` R77 over the fields `OPC`, `BK`, `DIR`. -/
def Reserved (w : Word64) : Prop :=
  2 ^ 12 ≤ w.toNat ∨ w.toNat % 256 = 0 ∨ 9 ≤ w.toNat % 256 ∨ 5 ≤ w.toNat / 256 % 8 ∨
  (w.toNat % 256 = 2 ∧ (w.toNat / 256 % 8 = 0 ∨ w.toNat / 256 % 8 = 3 ∨ w.toNat / 256 % 8 = 4)) ∨
  (w.toNat % 256 ≠ 2 ∧ w.toNat % 256 ≠ 3 ∧ (w.toNat / 256 % 8 ≠ 0 ∨ w.toNat / 2048 % 2 ≠ 0))

theorem exists_mem_plainOpcodes_iff {opc : Nat} :
    (∃ i, (opc, i) ∈ plainOpcodes) ↔ opc = 1 ∨ 4 ≤ opc ∧ opc ≤ 8 := by
  simp only [plainOpcodes, List.mem_cons, Prod.mk.injEq, List.not_mem_nil, or_false, exists_or,
    exists_and_left, exists_eq, and_true]
  omega

theorem exists_decodeBlk_iff : (∃ i, decodeBlk bk dir = .ok i) ↔ bk.toNat = 1 ∨ bk.toNat = 2 := by
  unfold decodeBlk
  split <;> simp_all

theorem exists_decodeBlks_iff : (∃ i, decodeBlks bk dir = .ok i) ↔ bk.toNat ≤ 4 := by
  unfold decodeBlks
  split <;> simp_all
  omega

theorem exists_decode_iff : (∃ i, decode w = .ok i) ↔ zeroOf w = 0 ∧
    (((opcOf w).toNat = 1 ∨ 4 ≤ (opcOf w).toNat ∧ (opcOf w).toNat ≤ 8) ∧ bkOf w = 0 ∧ dirOf w = 0 ∨
      (opcOf w).toNat = 2 ∧ ((bkOf w).toNat = 1 ∨ (bkOf w).toNat = 2) ∨
      (opcOf w).toNat = 3 ∧ (bkOf w).toNat ≤ 4) := by
  simp only [decode_ok_iff, exists_and_left, exists_or, exists_and_right, exists_mem_plainOpcodes_iff,
    exists_decodeBlk_iff, exists_decodeBlks_iff]

/-- A word decodes exactly where it is not reserved (`30_encoding.md` R77). -/
theorem exists_decode_iff_not_reserved : (∃ i, decode w = .ok i) ↔ ¬ Reserved w := by
  rw [exists_decode_iff, zeroOf_eq_zero_iff, bkOf_eq_zero_iff, dirOf_eq_zero_iff, opcOf_toNat, bkOf_toNat]
  unfold Reserved
  omega

end

/-- Settles O1: the table lists each command with the word of the encoder, which is the only word that decodes
to it. -/
theorem commandWordsDecodeExactly : Obligations.CommandWordsDecodeExactly :=
  ⟨fun _ _ => decode_ok_iff_eq_encode.trans mem_commandTable_iff.symm, rfl, by decide,
    fun i => ⟨decode_encode i, mem_commandTable_iff.2 rfl⟩⟩

/-! # Transactions of the register window

One lemma per kind of transaction says what it does once the register at the offset is known, and one lemma
per row of `30_encoding.md` R71 says which register that is. -/

section
variable {s : State} {off : Nat} {rest : List HostEvent} {v : Word64} {r : WindowReg}

theorem step_eq_hostEvent {e : HostEvent} (h : s.pending = e :: rest) :
    step s = hostEvent e { s with pending := rest } := by
  unfold step nextEvent
  rw [h]

theorem transactionWr_of_windowReg (h : windowReg off = some r) :
    transactionWr off v s = windowWrite v s r := by
  simp only [transactionWr, h]

theorem transactionRd_of_windowReg (h : windowReg off = some r) :
    transactionRd off s = .next (returnValue (windowRead s r) s) := by
  simp only [transactionRd, h]

theorem transactionWr_refused (h : windowReg off = none) :
    transactionWr off v s = .refused (.notATransaction off) := by
  simp only [transactionWr, h]

theorem transactionRd_refused (h : windowReg off = none) :
    transactionRd off s = .refused (.notATransaction off) := by
  simp only [transactionRd, h]

theorem commandWrite_of_not_decode (h : ¬ ∃ i, decode v = .ok i) :
    commandWrite v s = .next (raise .illegalCommand s) := by
  unfold commandWrite
  split
  · exact absurd ⟨_, ‹_›⟩ h
  · rfl

/-- Only CMD and the argument registers take a write (`30_encoding.md` R72 (b)). -/
theorem windowWrite_of_not_writable (hc : r ≠ .cmd) (hx : ∀ i, r ≠ .x i) : windowWrite v s r = .next s := by
  cases r
  case cmd => exact absurd rfl hc
  case x i => exact absurd rfl (hx i)
  all_goals rfl

theorem windowRead_pending : windowRead { s with pending := rest } r = windowRead s r := by
  cases r <;> rfl

theorem readsAs_of_windowReg (h : windowReg off = some r) : ReadsAs s off (windowRead s r) := by
  intro rest
  rw [step_eq_hostEvent rfl, hostEvent, transactionRd_of_windowReg h, windowRead_pending]
  rfl

/-! ## The register at an offset -/

theorem windowReg_slot {k : Nat} (h : k < 64) : windowReg (8 * k) = some (slotReg k) := by
  unfold windowReg
  rw [if_pos (by omega), Nat.mul_div_cancel_left k (by decide)]

theorem slotReg_reserved {k : Nat} (h : 3 ≤ k) (hk : k < 16) : slotReg k = .reserved := by
  unfold slotReg
  iterate 3 rw [if_neg (by omega)]
  rw [if_pos hk]

theorem windowReg_x (i : Fin 16) : windowReg (0x080 + 8 * i) = some (.x i) := by
  revert i; decide

theorem windowReg_rkr (i : Fin 32) : windowReg (0x100 + 8 * i) = some (.rkr i) := by
  revert i; decide

theorem slotReg_not_writable {k : Nat} (h : 1 ≤ k ∧ k < 16 ∨ 32 ≤ k ∧ k < 64) :
    slotReg k ≠ .cmd ∧ ∀ i, slotReg k ≠ .x i := by
  unfold slotReg
  rw [if_neg (by omega)]
  split_ifs with hstatus hcap hreserved hx
  · exact ⟨nofun, nofun⟩
  · exact ⟨nofun, nofun⟩
  · exact ⟨nofun, nofun⟩
  · exfalso; omega
  · exact ⟨nofun, nofun⟩

/-! ## The words of the read-only registers as numbers -/

/-- The parts of a word do not overlap, so appending is adding. -/
theorem toNat_append_eq_add {m n : Nat} (x : BitVec m) (y : BitVec n) :
    (x ++ y).toNat = x.toNat * 2 ^ n + y.toNat := by
  rw [BitVec.toNat_append, ← Nat.shiftLeft_add_eq_or_of_lt y.isLt, Nat.shiftLeft_eq]

theorem statusWord_eq_ofNat :
    statusWord s = BitVec.ofNat 64 (s.err.toNat + 2 ^ 8 * s.bkused.toNat + 2 ^ 16 * s.rkv.toNat) := by
  have h : (statusWord s).toNat = _ :=
    toNat_append_eq_add (0#47 ++ bitOf s.rkv ++ 0#4 ++ s.bkused ++ 0#4) s.err
  simp only [toNat_append_eq_add, bitOf, BitVec.toNat_ofNat, BitVec.toNat_ofBool] at h
  have := s.rkv.toNat_lt
  apply BitVec.eq_of_toNat_eq
  rw [h, BitVec.toNat_ofNat]
  omega

theorem capWord_eq_ofNat :
    capWord s = BitVec.ofNat 64 (s.params.capVA.toNat + 2 * s.params.capVB.toNat) := by
  have h : (capWord s).toNat = _ := toNat_append_eq_add (0#62 ++ bitOf s.params.capVB) (bitOf s.params.capVA)
  simp only [toNat_append_eq_add, bitOf, BitVec.toNat_ofNat, BitVec.toNat_ofBool] at h
  apply BitVec.eq_of_toNat_eq
  rw [h, BitVec.toNat_ofNat]
  omega

theorem rkrWord_eq_ofNat (i : Fin 32) :
    rkrWord s i = if s.rkv then BitVec.ofNat 64 (s.rk.get i).toNat else 0 := by
  rw [rkrWord, BitVec.ofNat_toNat]

theorem setX_get (i j : Fin 16) : (setX i v s).x.get j = if j = i then v else s.x.get j := by
  simp only [setX_x, Vector.get_eq_getElem, Vector.getElem_set, Fin.ext_iff, eq_comm]

end

/-- Settles O3: writing CMD runs the decoder, which accepts exactly the words that are not reserved. -/
theorem reservedEncodingsRaiseIllegalCommand : Obligations.ReservedEncodingsRaiseIllegalCommand := by
  rintro w _ _ _ rfl rfl rfl
  refine ⟨fun hr s rest hp => ?_, exists_decode_iff_not_reserved.2⟩
  have hd : ¬ ∃ i, decode w = .ok i := fun h => exists_decode_iff_not_reserved.1 h hr
  calc step s = commandWrite w { s with pending := rest } := step_eq_hostEvent hp
    _ = _ := commandWrite_of_not_decode hd

/-- Settles O6: each row of the window's table, read and written. -/
theorem windowTransactions : Obligations.WindowTransactions := by
  intro s
  refine ⟨readsAs_of_windowReg (r := .cmd) rfl, ?status, ?cap, fun k h hk => ?reserved,
    fun i => readsAs_of_windowReg (windowReg_x i), fun i => ?rkr, fun rest v => ⟨fun k hk => ?readOnly,
    fun i => ⟨setX i v { s with pending := rest }, ?writeX, fun j => setX_get i j, rfl⟩, fun off h => ?refused⟩⟩
  case status => exact statusWord_eq_ofNat ▸ readsAs_of_windowReg (r := .status) rfl
  case cap => exact capWord_eq_ofNat ▸ readsAs_of_windowReg (r := .cap) rfl
  case reserved => exact readsAs_of_windowReg (slotReg_reserved h hk ▸ windowReg_slot (by omega))
  case rkr => exact rkrWord_eq_ofNat i ▸ readsAs_of_windowReg (windowReg_rkr i)
  case readOnly =>
    obtain ⟨hc, hx⟩ := slotReg_not_writable hk
    exact (transactionWr_of_windowReg (windowReg_slot (by omega))).trans (windowWrite_of_not_writable hc hx)
  case writeX => exact transactionWr_of_windowReg (windowReg_x i)
  case refused =>
    have hn : windowReg off = none := if_neg (by omega)
    exact ⟨transactionWr_refused hn, transactionRd_refused hn⟩

end Sys2Proof.Proofs

/-! # The key schedule

The network (`40_sm4_primitives.md` R109) passes through one state of four words per round. Each round shifts
the words down by one, so the first words of the states are one sequence in which every state is a window of
four: a recurrence over that sequence is the round read at a window. -/

namespace Sys2Proof.Proofs

open Sys2Proof.Machine Sys2Proof.Safety

section
variable (t : Word32 → Word32) (k : Nat → Word32) (a : Words)

/-- The state of the network after `n` rounds from `a`, round `i` with the round key `k i`
(`40_sm4_primitives.md` R109). -/
def networkState : Nat → Words
  | 0 => a
  | n + 1 => feistelRound t (networkState n) (k n)

/-- Word `n` of the sequence the network computes: its four start words, then one word per round. -/
def networkWord (n : Nat) : Word32 := (networkState t k a n).w0

theorem networkState_eq_window (n : Nat) : networkState t k a n =
    ⟨networkWord t k a n, networkWord t k a (n + 1), networkWord t k a (n + 2), networkWord t k a (n + 3)⟩ :=
  rfl

theorem networkState_succ_w3 (n : Nat) : (networkState t k a (n + 1)).w3 = networkWord t k a (n + 4) := rfl

theorem networkWord_add_four (n : Nat) : networkWord t k a (n + 4) = networkWord t k a n ^^^
    t (networkWord t k a (n + 1) ^^^ networkWord t k a (n + 2) ^^^ networkWord t k a (n + 3) ^^^ k n) := by
  rw [← networkState_succ_w3, networkState, networkState_eq_window, feistelRound]

/-- `rk[i] = K[i+4]` (`41_key_schedule.md` R120), for the `n` round keys from round `j` on. -/
theorem expandKeys_range' (j n : Nat) :
    expandKeys ((List.range' j n).map k) (networkState roundTp k a j) =
      (List.range' j n).map fun i => networkWord roundTp k a (i + 4) := by
  induction n generalizing j with
  | zero => rfl
  | succ n ih =>
    rw [List.range'_succ, List.map_cons, List.map_cons, expandKeys, ← networkState, networkState_succ_w3, ih]

end

theorem roundKeys_eq_map (mk : Block) :
    roundKeys mk = (List.range 32).map fun i => networkWord roundTp ck (keyStart mk) (i + 4) := by
  rw [roundKeys, List.range_eq_range']
  exact expandKeys_range' ck (keyStart mk) 0 32

theorem keySchedule_get (mk : Block) (i : Fin 32) :
    (keySchedule mk).get i = networkWord roundTp ck (keyStart mk) (i + 4) := by
  simp [Vector.get_eq_getElem, keySchedule, roundKeys_eq_map]

/-- Settles O24: the sequence is the network's, with `Tp` and the constants `CK`, from the key words masked
with `FK`. -/
theorem keyScheduleRecurrence : Obligations.KeyScheduleRecurrence := fun mk =>
  ⟨networkWord roundTp ck (keyStart mk), rfl, rfl, rfl, rfl,
    fun i _ => networkWord_add_four roundTp ck (keyStart mk) i, keySchedule_get mk⟩

/-! ## The command KEXP -/

theorem kexpCheck_of_length_ne {s : State} (h : xval s 1 ≠ 16) : kexpCheck s = .invalidKeyLength := if_pos h

/-- Settles O23: the length check fails, or it passes and the one buffer, the key, decides. -/
theorem kexpLoadsKeySchedule : Obligations.KexpLoadsKeySchedule := by
  refine ⟨rfl, fun s => ⟨fun hlen => ?badLength, fun hlen hkey => ?loads, fun hlen hkey => ?faults⟩⟩
  case badLength =>
    have hc := kexpCheck_of_length_ne hlen
    calc exec .kexp s = .next (raise (kexpCheck s) s) := runCommand_raise (by rw [hc]; decide)
      _ = _ := by rw [hc]; rfl
  case loads =>
    exact runCommand_body ((kexpCheck_ok_iff s).2 hlen) (List.forall_mem_singleton.2 hkey)
  case faults =>
    exact runCommand_fault_iff.2
      ⟨(kexpCheck_ok_iff s).2 hlen, fun h => hkey (List.forall_mem_singleton.1 h), rfl⟩

end Sys2Proof.Proofs

/-! # ScalarCore and TableCore

Reversing the four words turns a round into its own inverse (`40_sm4_primitives.md` R109), whatever the
transform: hence the network with the keys reversed undoes it. TableCore's transform is `T`, since `L` is
linear and a word is the sum of its bytes in their places. -/

namespace Sys2Proof.Proofs

open Sys2Proof.Machine Sys2Proof.Safety

/-! ## The network with the keys reversed -/

@[simp] theorem revWords_revWords (w : Words) : revWords (revWords w) = w := rfl

/-- Unpacking and packing the words of a Block (`40_sm4_primitives.md` R108). -/
theorem blockOfWords_wordsOfBlock (b : Block) : blockOfWords (wordsOfBlock b) = b := by
  simp only [blockOfWords, wordsOfBlock]
  rw [BitVec.extractLsb'_append_extractLsb'_eq_extractLsb' (rfl : 96 = 64 + 32),
    BitVec.extractLsb'_append_extractLsb'_eq_extractLsb' (rfl : 64 = 32 + 32),
    BitVec.extractLsb'_append_extractLsb'_eq_extractLsb' (rfl : 32 = 0 + 32)]
  exact BitVec.extractLsb'_eq_self

section
variable (t : Word32 → Word32)

theorem feistelRound_revWords_feistelRound (a : Words) (k : Word32) :
    feistelRound t (revWords (feistelRound t a k)) k = revWords a := by
  have hsum : a.w3 ^^^ a.w2 ^^^ a.w1 ^^^ k = a.w1 ^^^ a.w2 ^^^ a.w3 ^^^ k := by ac_rfl
  simp only [feistelRound, revWords, hsum]
  rw [BitVec.xor_assoc, BitVec.xor_self, BitVec.xor_zero]

theorem foldl_feistelRound_reverse (ks : List Word32) (a : Words) :
    ks.reverse.foldl (feistelRound t) (revWords (ks.foldl (feistelRound t) a)) = revWords a := by
  induction ks generalizing a with
  | nil => rfl
  | cons k ks ih =>
    rw [List.foldl_cons, List.reverse_cons, List.foldl_append, ih]
    exact feistelRound_revWords_feistelRound t a k

theorem cryptWith_reverse_cryptWith (ks : List Word32) (b : Block) :
    cryptWith t ks.reverse (cryptWith t ks b) = b := by
  unfold cryptWith
  rw [wordsOfBlock_blockOfWords, foldl_feistelRound_reverse, revWords_revWords, blockOfWords_wordsOfBlock]

end

/-- Settles O26: both orders are the network undone by the reversed keys, since reversing twice is nothing. -/
theorem scalarRoundTrip : Obligations.ScalarRoundTrip := by
  refine fun rk b => ⟨rfl, cryptWith_reverse_cryptWith roundT rk b, ?encryptDecrypt⟩
  have h := cryptWith_reverse_cryptWith roundT rk.reverse b
  rwa [List.reverse_reverse] at h

/-! ## The transform of TableCore -/

theorem rotl_xor (a b : Word32) (n : Nat) : rotl (a ^^^ b) n = rotl a n ^^^ rotl b n := by
  ext i hi
  simp only [rotl, BitVec.getElem_xor, BitVec.getElem_rotateLeft]
  split <;> rfl

theorem linL_xor (a b : Word32) : linL (a ^^^ b) = linL a ^^^ linL b := by
  simp only [linL, rotl_xor]
  ac_rfl

/-- A word is the sum of its bytes in their places (`40_sm4_primitives.md` R105). -/
theorem append_bytes_eq_xor (a b c d : Byte) : (a ++ b ++ c ++ d : Word32) =
    a.setWidth 32 <<< 24 ^^^ b.setWidth 32 <<< 16 ^^^ c.setWidth 32 <<< 8 ^^^ d.setWidth 32 := by
  apply BitVec.eq_of_getLsbD_eq
  intro i hi
  simp only [BitVec.getLsbD_append, BitVec.getLsbD_xor, BitVec.getLsbD_shiftLeft, BitVec.getLsbD_setWidth]
  grind

/-- `T` is the sum over the four bytes that TableCore looks up (`42_block_scalar_table.md` R136). -/
theorem tabT_eq_roundT (x : Word32) : tabT x = roundT x := by
  simp [tabT, tab, roundT, tau, mapBytes, append_bytes_eq_xor, linL_xor]

theorem cryptWith_tabT : cryptWith tabT = crypt := by
  rw [funext tabT_eq_roundT]
  rfl

/-! ## The four BLK commands -/

section
variable {s t : State} {b : Buffer} {bs : List Byte}

theorem holdsBytes_of_mem (hmem : t.mem = memWriteBytes s.mem b.addr bs) (hwf : Memory.wf s.mem = true) :
    HoldsBytes t b.addr bs := by
  intro k hk
  rw [hmem, memRead_memWriteBytes_inside hwf hk]

theorem sameOutside_of_mem (hmem : t.mem = memWriteBytes s.mem b.addr bs) (hlen : bs.length = b.len) :
    SameOutside [b] s t := by
  intro a ha
  have hout : ¬ inBuffer b a := ha b (List.mem_singleton_self b)
  rw [hmem, memRead_memWriteBytes_outside s.mem bs (by omega)]

end

section
variable {core : List Word32 → Block → Block} {unit : Config.Backend} {s : State}

theorem blkCommand_noKey (hv : s.rkv = false) : blkCommand core unit s = .next (raise .noKey s) :=
  blkCommand_next_iff.2 (.inl ⟨hv, rfl⟩)

theorem blkCommand_fault (hv : s.rkv = true)
    (hb : ¬ (Reachable s.params (blkSrc s) ∧ Reachable s.params (blkDst s))) :
    blkCommand core unit s = .fault .bufferFault := by
  refine runCommand_fault_iff.2 ⟨(keyedCheck_ok_iff s).2 hv, fun h => hb ?_, rfl⟩
  exact ⟨h _ List.mem_cons_self, h _ (.tail _ List.mem_cons_self)⟩

theorem blkCommand_body (hv : s.rkv = true) (hsrc : Reachable s.params (blkSrc s))
    (hdst : Reachable s.params (blkDst s)) : blkCommand core unit s = .next (blkBody core unit s) :=
  blkCommand_next_iff.2 (.inr ⟨hv, hsrc, hdst, rfl⟩)

theorem blkBody_mem : (blkBody core unit s).mem =
    memWriteBytes s.mem (blkDst s).addr (bytesOfBlock (core s.rk.toList (readBlock s (blkSrc s)))) := rfl

theorem blkBody_holdsBytes (hwf : Memory.wf s.mem = true) : HoldsBytes (blkBody core unit s) (xval s 1)
    (bytesOfBlock (core s.rk.toList (blockAt s (xval s 0)))) :=
  holdsBytes_of_mem blkBody_mem hwf

theorem blkBody_sameHostSide : SameHostSide s (blkBody core unit s) := by
  simp [SameHostSide, blkBody]

theorem blkBody_sameBank : SameBank s (blkBody core unit s) := by
  simp [SameBank, blkBody]

theorem blkBody_sameOutside : SameOutside [⟨xval s 1, 16⟩] s (blkBody core unit s) :=
  sameOutside_of_mem blkBody_mem (bytesOfBlock_length _)

end

/-- Each BLK command is the frame of R133 around a core that computes the network, with its backend's bit. -/
theorem exists_core_of_blk {s : State} {w : Word64} {i : Instr} {ks : List Word32} {used : BitVec 4}
    (h : (w, i, ks, used) ∈ [((0x0102 : Word64), Instr.blkSE, s.rk.toList, (1 : BitVec 4)),
      (0x0902, .blkSD, s.rk.toList.reverse, 1), (0x0202, .blkTE, s.rk.toList, 2),
      (0x0A02, .blkTD, s.rk.toList.reverse, 2)]) :
    ∃ core unit, decode w = .ok i ∧ exec i s = blkCommand core unit s ∧ core s.rk.toList = crypt ks ∧
      used = backendBit unit := by
  simp only [List.mem_cons, Prod.mk.injEq, List.not_mem_nil, or_false] at h
  obtain ⟨rfl, rfl, rfl, rfl⟩ | ⟨rfl, rfl, rfl, rfl⟩ | ⟨rfl, rfl, rfl, rfl⟩ | ⟨rfl, rfl, rfl, rfl⟩ := h
  · exact ⟨scalarEncrypt, .scalarCore, rfl, rfl, rfl, rfl⟩
  · exact ⟨scalarDecrypt, .scalarCore, rfl, rfl, rfl, rfl⟩
  · exact ⟨tableEncrypt, .tableCore, rfl, rfl, congrFun cryptWith_tabT _, rfl⟩
  · exact ⟨tableDecrypt, .tableCore, rfl, rfl, congrFun cryptWith_tabT _, rfl⟩

/-- Settles O30: the three outcomes of the frame, for a core that computes the network. -/
theorem blkTransformsOneBlock : Obligations.BlkTransformsOneBlock := by
  intro s w i ks used h
  obtain ⟨core, unit, hdec, hexec, hcore, rfl⟩ := exists_core_of_blk h
  rw [hexec, ← hcore]
  exact ⟨hdec, blkCommand_noKey, blkCommand_fault, fun hv hsrc hdst hwf =>
    ⟨blkBody core unit s, blkCommand_body hv hsrc hdst, blkBody_holdsBytes hwf, blkBody_sameOutside,
      blkBody_sameHostSide, blkBody_sameBank, rfl, rfl⟩⟩

end Sys2Proof.Proofs

/-! # The carry-less product

`clmul` sums shifts of its first factor, so it distributes over XOR on either side. Every number is itself
such a sum of powers of two (`clmul_one_left`), so two maps that carry XOR to XOR agree once they agree on the
powers of two: commutativity and associativity are checked there, where a product is a shift. -/

namespace Sys2Proof.Proofs

open Sys2Proof.Machine Sys2Proof.Safety

/-! ## How far the sum runs -/

section
variable (a b c : Nat)

theorem clmulBits_succ_of_false {b n : Nat} (h : b.testBit n = false) : clmulBits a b (n + 1) = clmulBits a b n := by
  rw [clmulBits, h, cond_false, Nat.xor_zero]

theorem testBit_clmulBits_succ (n k : Nat) : (clmulBits a b (n + 1)).testBit k =
    ((clmulBits a b n).testBit k ^^ (b.testBit n && (a <<< n).testBit k)) := by
  rw [clmulBits, Nat.testBit_xor]
  cases b.testBit n
  · rw [cond_false, Nat.zero_testBit, Bool.false_and]
  · rw [cond_true, Bool.true_and]

theorem clmulBits_eq_zero {b n : Nat} (h : ∀ j < n, b.testBit j = false) : clmulBits a b n = 0 := by
  induction n with
  | zero => rfl
  | succ n ih => rw [clmulBits_succ_of_false a (h n n.lt_succ_self), ih fun j hj => h j (by omega)]

theorem clmulBits_add_of_lt {b n : Nat} (h : b < 2 ^ n) (d : Nat) : clmulBits a b (n + d) = clmulBits a b n := by
  induction d with
  | zero => rfl
  | succ d ih =>
    have hbit : b.testBit (n + d) = false :=
      Nat.testBit_lt_two_pow (h.trans_le (Nat.pow_le_pow_right (by decide) (n.le_add_right d)))
    rw [← Nat.add_assoc, clmulBits_succ_of_false a hbit, ih]

/-- The sum of R201 may run over any range that holds all bits of `b`. -/
theorem clmul_eq_clmulBits {b n : Nat} (h : b < 2 ^ n) : clmul a b = clmulBits a b n := by
  rw [clmul, ← clmulBits_add_of_lt a Nat.lt_log2_self n, Nat.add_comm, clmulBits_add_of_lt a h]

/-! ## Distributivity over XOR -/

theorem clmulBits_xor_left (n : Nat) : clmulBits (a ^^^ b) c n = clmulBits a c n ^^^ clmulBits b c n := by
  induction n with
  | zero => exact (Nat.xor_self 0).symm
  | succ n ih =>
    simp only [clmulBits, ih]
    cases c.testBit n
    · simp
    · simp only [cond_true, Nat.shiftLeft_xor_distrib]; ac_rfl

theorem clmulBits_xor_right (n : Nat) : clmulBits a (b ^^^ c) n = clmulBits a b n ^^^ clmulBits a c n := by
  induction n with
  | zero => exact (Nat.xor_self 0).symm
  | succ n ih =>
    have hterm : (bif (b ^^^ c).testBit n then a <<< n else 0) =
        (bif b.testBit n then a <<< n else 0) ^^^ (bif c.testBit n then a <<< n else 0) := by
      rw [Nat.testBit_xor]
      cases b.testBit n <;> cases c.testBit n <;> simp
    simp only [clmulBits, ih, hterm]
    ac_rfl

theorem clmul_xor_left : clmul (a ^^^ b) c = clmul a c ^^^ clmul b c := clmulBits_xor_left a b c _

theorem clmul_xor_right : clmul a (b ^^^ c) = clmul a b ^^^ clmul a c := by
  have hb : b < 2 ^ (b + c) := Nat.lt_two_pow_self.trans_le (Nat.pow_le_pow_right (by decide) (b.le_add_right c))
  have hc : c < 2 ^ (b + c) := Nat.lt_two_pow_self.trans_le (Nat.pow_le_pow_right (by decide) (c.le_add_left b))
  rw [clmul_eq_clmulBits a hb, clmul_eq_clmulBits a hc, clmul_eq_clmulBits a (Nat.xor_lt_two_pow hb hc),
    clmulBits_xor_right]

/-! ## Products with powers of two -/

@[simp] theorem clmul_zero : clmul a 0 = 0 := clmulBits_eq_zero a fun j _ => Nat.zero_testBit j

theorem clmul_two_pow (n : Nat) : clmul a (1 <<< n) = a <<< n := by
  have hlow : ∀ j < n, (1 <<< n).testBit j = false := fun j hj => by simp; omega
  have hn : 1 <<< n < 2 ^ (n + 1) := by rw [Nat.one_shiftLeft]; exact Nat.pow_lt_pow_succ (by decide)
  rw [clmul_eq_clmulBits a hn, clmulBits, clmulBits_eq_zero a hlow]
  simp

@[simp] theorem clmul_one : clmul a 1 = a := clmul_two_pow a 0

theorem testBit_clmulBits_one (n k : Nat) : (clmulBits 1 b n).testBit k = (decide (k < n) && b.testBit k) := by
  induction n with
  | zero => simp [clmulBits]
  | succ n ih =>
    rw [testBit_clmulBits_succ, ih, Nat.one_shiftLeft, Nat.testBit_two_pow]
    by_cases hk : n = k
    · simp [hk]
    · simp [hk, show k < n + 1 ↔ k < n by omega]

/-- Every number is the sum of the powers of two at its set bits. -/
theorem clmul_one_left : clmul 1 b = b := by
  apply Nat.eq_of_testBit_eq
  intro k
  rw [clmul, testBit_clmulBits_one]
  by_cases hk : k < b.log2 + 1
  · simp [hk]
  · have hlt : b < 2 ^ k := Nat.lt_log2_self.trans_le (Nat.pow_le_pow_right (by decide) (by omega))
    simp [Nat.testBit_lt_two_pow hlt]

end

/-- A map on polynomials over GF(2) that carries sums to sums. -/
def XorLinear (f : Nat → Nat) : Prop := ∀ a b : Nat, f (a ^^^ b) = f a ^^^ f b

theorem XorLinear.map_zero {f : Nat → Nat} (hf : XorLinear f) : f 0 = 0 := by
  have h := hf 0 0
  rwa [Nat.xor_self, Nat.xor_self] at h

/-- Two XOR-linear maps that agree on the powers of two are equal. -/
theorem XorLinear.ext {f g : Nat → Nat} (hf : XorLinear f) (hg : XorLinear g)
    (h : ∀ n, f (1 <<< n) = g (1 <<< n)) (b : Nat) : f b = g b := by
  have hsum : ∀ n, f (clmulBits 1 b n) = g (clmulBits 1 b n) := by
    intro n
    induction n with
    | zero => exact hf.map_zero.trans hg.map_zero.symm
    | succ n ih =>
      rw [clmulBits, hf, hg, ih]
      cases b.testBit n
      · exact congrArg _ (hf.map_zero.trans hg.map_zero.symm)
      · exact congrArg _ (h n)
  rw [← clmul_one_left b]
  exact hsum _

/-! ## Commutativity and associativity -/

section
variable (a b c : Nat)

theorem clmul_two_pow_left (n : Nat) : clmul (1 <<< n) b = b <<< n := by
  refine XorLinear.ext (f := clmul (1 <<< n)) (g := (· <<< n)) (clmul_xor_right _)
    (fun _ _ => Nat.shiftLeft_xor_distrib) (fun m => ?_) b
  rw [clmul_two_pow, ← Nat.shiftLeft_add, ← Nat.shiftLeft_add, Nat.add_comm]

theorem clmul_comm : clmul a b = clmul b a := by
  refine XorLinear.ext (f := clmul a) (g := (clmul · a)) (clmul_xor_right a)
    (fun x y => clmul_xor_left x y a) (fun n => ?_) b
  rw [clmul_two_pow, clmul_two_pow_left]

theorem clmul_shiftLeft (n : Nat) : clmul a (b <<< n) = clmul a b <<< n := by
  refine XorLinear.ext (f := fun b => clmul a (b <<< n)) (g := fun b => clmul a b <<< n)
    (fun x y => ?_) (fun x y => ?_) (fun m => ?_) b
  · simp only [Nat.shiftLeft_xor_distrib, clmul_xor_right]
  · simp only [Nat.shiftLeft_xor_distrib, clmul_xor_right]
  · simp only [← Nat.shiftLeft_add, clmul_two_pow]

theorem clmul_assoc : clmul (clmul a b) c = clmul a (clmul b c) := by
  refine XorLinear.ext (f := clmul (clmul a b)) (g := fun c => clmul a (clmul b c)) (clmul_xor_right _)
    (fun x y => ?_) (fun n => ?_) c
  · simp only [clmul_xor_right]
  · rw [clmul_two_pow, clmul_two_pow, clmul_shiftLeft]

end

/-! ## Bound and bits -/

theorem clmulBits_lt {a m : Nat} (h : a < 2 ^ m) (b n : Nat) : clmulBits a b (n + 1) < 2 ^ (m + n) := by
  have hterm : ∀ n, (bif b.testBit n then a <<< n else 0) < 2 ^ (m + n) := fun n => by
    cases b.testBit n
    · exact Nat.two_pow_pos _
    · exact Nat.shiftLeft_lt h
  induction n with
  | zero => exact Nat.xor_lt_two_pow (Nat.two_pow_pos _) (hterm 0)
  | succ n ih =>
    have hle : 2 ^ (m + n) ≤ 2 ^ (m + (n + 1)) := Nat.pow_le_pow_right (by decide) (by omega)
    exact Nat.xor_lt_two_pow (ih.trans_le hle) (hterm (n + 1))

/-- The degree of a product of polynomials is at most the sum of their degrees. -/
theorem clmul_lt {a b m n : Nat} (ha : a < 2 ^ m) (hb : b < 2 ^ (n + 1)) : clmul a b < 2 ^ (m + n) := by
  rw [clmul_eq_clmulBits a hb]
  exact clmulBits_lt ha b n

/-- Terms shifted past bit `k` do not touch it. -/
theorem testBit_clmulBits_add (a b k d : Nat) :
    (clmulBits a b (k + 1 + d)).testBit k = (clmulBits a b (k + 1)).testBit k := by
  induction d with
  | zero => rfl
  | succ d ih =>
    rw [← Nat.add_assoc, testBit_clmulBits_succ, ih, Nat.testBit_shiftLeft]
    simp [show ¬ k + 1 + d ≤ k by omega]

theorem testBit_clmulBits (a b : Nat) {n k : Nat} (h : n ≤ k + 1) : (clmulBits b a n).testBit k =
    (List.range n).foldl (fun acc i => acc ^^ (a.testBit i && b.testBit (k - i))) false := by
  induction n with
  | zero => simp [clmulBits]
  | succ n ih =>
    have hn : n ≤ k := by omega
    rw [List.range_succ, List.foldl_append, ← ih (by omega), testBit_clmulBits_succ, Nat.testBit_shiftLeft]
    simp [hn]

theorem testBit_clmul (a b k : Nat) : (clmul a b).testBit k =
    (List.range (k + 1)).foldl (fun acc i => acc ^^ (a.testBit i && b.testBit (k - i))) false := by
  have ha : a < 2 ^ (k + 1 + a) :=
    Nat.lt_two_pow_self.trans_le (Nat.pow_le_pow_right (by decide) (Nat.le_add_left a (k + 1)))
  rw [clmul_comm, clmul_eq_clmulBits b ha, testBit_clmulBits_add, testBit_clmulBits a b le_rfl]

/-- Settles O36: the parts are the lemmas above; for the bound, the degrees are at most 127. -/
theorem carrylessProduct : Obligations.CarrylessProduct :=
  ⟨testBit_clmul, fun _ _ ha hb => clmul_lt (n := 127) ha hb, clmul_comm, clmul_xor_right, clmul_xor_left⟩

end Sys2Proof.Proofs

/-! # The field GF(2^128)

The product is congruent to the carry-less one modulo `g`, and below `2^128` each class has one member. The
laws of `46_gf128.md` R204 are hence those of `clmul`, read modulo `g`. -/

namespace Sys2Proof.Proofs

open Sys2Proof.Machine Sys2Proof.Safety

/-! ## Congruence modulo `g` -/

/-- The GCM polynomial `g(x)` divides the sum of `p` and `r` (`46_gf128.md` R200). -/
def CongModG (p r : Nat) : Prop := ∃ q : Nat, p ^^^ r = clmul q (2 ^ 128 + 0x87)

theorem clmul_g (q : Nat) : clmul q (2 ^ 128 + 0x87) = q <<< 128 ^^^ clmul q 0x87 := by
  rw [show 2 ^ 128 + 0x87 = 1 <<< 128 ^^^ 0x87 by decide, clmul_xor_right, clmul_two_pow]

section
variable {p r u v : Nat}

theorem CongModG.symm (h : CongModG p r) : CongModG r p := by
  obtain ⟨q, hq⟩ := h
  exact ⟨q, by rw [Nat.xor_comm, hq]⟩

theorem CongModG.xor (h : CongModG p r) (h' : CongModG u v) : CongModG (p ^^^ u) (r ^^^ v) := by
  obtain ⟨q, hq⟩ := h
  obtain ⟨q', hq'⟩ := h'
  refine ⟨q ^^^ q', ?_⟩
  rw [clmul_xor_left, ← hq, ← hq']
  ac_rfl

theorem CongModG.trans (h : CongModG p r) (h' : CongModG r u) : CongModG p u := by
  obtain ⟨q, hq⟩ := h
  obtain ⟨q', hq'⟩ := h'
  refine ⟨q ^^^ q', ?_⟩
  rw [clmul_xor_left, ← hq, ← hq', Nat.xor_assoc, Nat.xor_xor_cancel_left]

theorem CongModG.clmul_left (h : CongModG p r) (c : Nat) : CongModG (clmul c p) (clmul c r) := by
  obtain ⟨q, hq⟩ := h
  exact ⟨clmul c q, by rw [← clmul_xor_right, hq, clmul_assoc]⟩

theorem CongModG.clmul_right (h : CongModG p r) (c : Nat) : CongModG (clmul p c) (clmul r c) := by
  rw [clmul_comm p, clmul_comm r]
  exact h.clmul_left c

/-- A multiple of `g` below `2^128` is zero: a factor's leading bit stands 128 places up in the product. -/
theorem eq_zero_of_clmul_g_lt {q : Nat} (h : clmul q (2 ^ 128 + 0x87) < 2 ^ 128) : q = 0 := by
  by_contra hq
  have hlow : clmul q 0x87 < 2 ^ (128 + q.log2) :=
    (clmul_lt (n := 7) Nat.lt_log2_self (by decide)).trans_le (Nat.pow_le_pow_right (by decide) (by omega))
  have htop : (clmul q (2 ^ 128 + 0x87)).testBit (128 + q.log2) = true := by
    rw [clmul_g, Nat.testBit_xor, Nat.testBit_lt_two_pow hlow, Nat.testBit_shiftLeft]
    simp [Nat.testBit_log2 hq]
  have hge : 2 ^ 128 ≤ clmul q (2 ^ 128 + 0x87) :=
    (Nat.pow_le_pow_right (by decide) (by omega)).trans (Nat.ge_two_pow_of_testBit htop)
  omega

theorem CongModG.eq_of_lt (h : CongModG p r) (hp : p < 2 ^ 128) (hr : r < 2 ^ 128) : p = r := by
  obtain ⟨q, hq⟩ := h
  have hq0 : q = 0 := eq_zero_of_clmul_g_lt (hq ▸ Nat.xor_lt_two_pow hp hr)
  rw [hq0, clmul_comm, clmul_zero] at hq
  exact Nat.xor_eq_zero_iff.1 hq

end

/-! ## Reduction -/

/-- One fold of `Reduce` (`46_gf128.md` R202): the bits from 128 up, times `x^7 + x^2 + x + 1`, are added to the
low 128. -/
def foldG (p : Nat) : Nat := p % 2 ^ 128 ^^^ clmul (p / 2 ^ 128) 0x87

/-- The high and the low bits of a number, put together again. -/
theorem shiftLeft_div_xor_mod (p n : Nat) : (p / 2 ^ n) <<< n ^^^ p % 2 ^ n = p := by
  apply Nat.eq_of_testBit_eq
  intro i
  rw [Nat.testBit_xor, Nat.testBit_shiftLeft, Nat.testBit_div_two_pow, Nat.testBit_mod_two_pow]
  by_cases hi : i < n
  · simp [hi, Nat.not_le.2 hi]
  · simp [hi, Nat.not_lt.1 hi]

theorem foldG_congModG (p : Nat) : CongModG (foldG p) p := by
  refine ⟨p / 2 ^ 128, ?_⟩
  calc foldG p ^^^ p
      = ((p / 2 ^ 128) <<< 128 ^^^ p % 2 ^ 128) ^^^ foldG p := by rw [shiftLeft_div_xor_mod, Nat.xor_comm]
    _ = (p / 2 ^ 128) <<< 128 ^^^ clmul (p / 2 ^ 128) 0x87 := by rw [foldG, Nat.xor_assoc, Nat.xor_xor_cancel_left]
    _ = clmul (p / 2 ^ 128) (2 ^ 128 + 0x87) := (clmul_g _).symm

theorem foldG_lt {p n : Nat} (h : p < 2 ^ (128 + n)) (hn : 121 ≤ n) : foldG p < 2 ^ (n + 7) := by
  have hhi : p / 2 ^ 128 < 2 ^ n := Nat.div_lt_of_lt_mul (by rwa [← Nat.pow_add])
  have hlo : p % 2 ^ 128 < 2 ^ (n + 7) :=
    (Nat.mod_lt _ (Nat.two_pow_pos _)).trans_le (Nat.pow_le_pow_right (by decide) (by omega))
  exact Nat.xor_lt_two_pow hlo (clmul_lt hhi (by decide))

theorem gfReduce_eq_foldG_foldG (p : Nat) : gfReduce p = foldG (foldG p) := by
  have hlo : p % 2 ^ 128 < 2 ^ 128 := Nat.mod_lt _ (Nat.two_pow_pos _)
  rw [foldG.eq_def (foldG p), foldG, Nat.xor_mod_two_pow, Nat.xor_div_two_pow, Nat.mod_mod,
    Nat.div_eq_of_lt hlo, Nat.zero_xor, gfReduce]

theorem gfReduce_congModG (p : Nat) : CongModG (gfReduce p) p := by
  rw [gfReduce_eq_foldG_foldG]
  exact (foldG_congModG _).trans (foldG_congModG p)

theorem gfReduce_lt {p : Nat} (h : p < 2 ^ 255) : gfReduce p < 2 ^ 128 := by
  have h1 : foldG p < 2 ^ (128 + 121) :=
    (foldG_lt (n := 127) h (by decide)).trans_le (Nat.pow_le_pow_right (by decide) (by decide))
  rw [gfReduce_eq_foldG_foldG]
  exact foldG_lt (n := 121) h1 le_rfl

/-! ## The laws of the product -/

/-- An element is the only member of its class. -/
theorem eq_of_congModG {a b : Elem} (h : CongModG a.toNat b.toNat) : a = b :=
  BitVec.eq_of_toNat_eq (h.eq_of_lt a.isLt b.isLt)

section
variable (a b c : Elem)

theorem gfMul_toNat : (gfMul a b).toNat = gfReduce (clmul a.toNat b.toNat) := by
  rw [gfMul, BitVec.toNat_ofNat]
  exact Nat.mod_eq_of_lt (gfReduce_lt (clmul_lt (n := 127) a.isLt b.isLt))

theorem gfMul_congModG : CongModG (gfMul a b).toNat (clmul a.toNat b.toNat) := by
  rw [gfMul_toNat]
  exact gfReduce_congModG _

theorem gfMul_comm : gfMul a b = gfMul b a := by rw [gfMul, clmul_comm, gfMul]

theorem gfMul_assoc : gfMul (gfMul a b) c = gfMul a (gfMul b c) := by
  have hl := (gfMul_congModG (gfMul a b) c).trans ((gfMul_congModG a b).clmul_right c.toNat)
  have hr := (gfMul_congModG a (gfMul b c)).trans ((gfMul_congModG b c).clmul_left a.toNat)
  rw [← clmul_assoc] at hr
  exact eq_of_congModG (hl.trans hr.symm)

theorem gfMul_one : gfMul a 1 = a := by
  have h : CongModG (gfMul a 1).toNat (clmul a.toNat 1) := gfMul_congModG a 1
  rw [clmul_one] at h
  exact eq_of_congModG h

theorem gfMul_zero : gfMul a 0 = 0 := by
  have h : CongModG (gfMul a 0).toNat (clmul a.toNat 0) := gfMul_congModG a 0
  rw [clmul_zero] at h
  exact eq_of_congModG h

theorem gfMul_xor : gfMul a (b ^^^ c) = gfMul a b ^^^ gfMul a c := by
  have hsum := (gfMul_congModG a b).xor (gfMul_congModG a c)
  have h := gfMul_congModG a (b ^^^ c)
  rw [BitVec.toNat_xor, clmul_xor_right] at h
  apply eq_of_congModG
  rw [BitVec.toNat_xor]
  exact h.trans hsum.symm

end

/-- Settles O39: each law holds of `clmul`, and both of its sides are below `2^128`. -/
theorem gfMulFieldLaws : Obligations.GfMulFieldLaws :=
  ⟨gfMul_comm, gfMul_assoc, gfMul_one, gfMul_xor, gfMul_zero⟩

end Sys2Proof.Proofs

/-! # Blocks as field elements, and the command GFMUL -/

namespace Sys2Proof.Proofs

open Sys2Proof.Machine Sys2Proof.Safety

/-! ## The two bit orders -/

theorem getLsbD_blockByte (b : Block) (k : Nat) {j : Nat} (hj : j < 8) :
    (blockByte b k).getLsbD j = b.getLsbD (120 - 8 * k + j) := by
  rw [blockByte, BitVec.getLsbD_setWidth, BitVec.getLsbD_ushiftRight, decide_eq_true hj, Bool.true_and]

theorem getLsbD_elemOfBlock_natural (b : Block) {i : Nat} (hi : i < 128) :
    (elemOfBlock .natural b).getLsbD i = (blockByte b (15 - i / 8)).getLsbD (i % 8) := by
  rw [getLsbD_blockByte b _ (Nat.mod_lt i (by decide)), show 120 - 8 * (15 - i / 8) + i % 8 = i by omega]
  rfl

theorem getLsbD_elemOfBlock_reflected (b : Block) {i : Nat} (hi : i < 128) :
    (elemOfBlock .reflected b).getLsbD i = (blockByte b (i / 8)).getLsbD (7 - i % 8) := by
  rw [getLsbD_blockByte b _ (by omega), show 120 - 8 * (i / 8) + (7 - i % 8) = 127 - i by omega]
  calc b.reverse.getLsbD i = b.getMsbD i := BitVec.getLsbD_reverse
    _ = b.getLsbD (127 - i) := by rw [BitVec.getMsbD_eq_getLsbD, decide_eq_true hi, Bool.true_and]

theorem reverse_reverse {w : Nat} (x : BitVec w) : x.reverse.reverse = x := by
  apply BitVec.eq_of_getLsbD_eq
  intro i hi
  rw [BitVec.getLsbD_reverse, BitVec.getMsbD_reverse]

theorem reverse_twoPow {w i : Nat} (h : i < w) : (BitVec.twoPow w i).reverse = BitVec.twoPow w (w - 1 - i) := by
  apply BitVec.eq_of_getLsbD_eq
  intro j hj
  rw [BitVec.getLsbD_reverse, BitVec.getMsbD_eq_getLsbD, BitVec.getLsbD_twoPow, BitVec.getLsbD_twoPow]
  have hji : i = w - 1 - j ↔ w - 1 - i = j := by omega
  simp [hj, h, hji, show w - 1 - i < w by omega]

/-- In REFLECTED the Block of `x^i` has the single bit `127 - i` (`46_gf128.md` R205). -/
theorem blockOfElem_reflected_twoPow {i : Nat} (h : i < 128) :
    blockOfElem .reflected (BitVec.twoPow 128 i) = BitVec.twoPow 128 (127 - i) :=
  reverse_twoPow h

@[simp] theorem blockOfElem_elemOfBlock (o : Config.BitOrder) (b : Block) : blockOfElem o (elemOfBlock o b) = b := by
  cases o
  · exact reverse_reverse b
  · rfl

@[simp] theorem elemOfBlock_blockOfElem (o : Config.BitOrder) (e : Elem) : elemOfBlock o (blockOfElem o e) = e := by
  cases o
  · exact reverse_reverse e
  · rfl

theorem blockOfElem_eq_iff (o : Config.BitOrder) (b : Block) (e : Elem) :
    blockOfElem o e = b ↔ elemOfBlock o b = e := by
  constructor
  · rintro rfl
    exact elemOfBlock_blockOfElem o e
  · rintro rfl
    exact blockOfElem_elemOfBlock o b

/-- Settles O40: the bits of both orders, their inverses, and the Blocks of `1`, `x` and `x^127` as powers of `x`. -/
theorem blockElementMaps : Obligations.BlockElementMaps :=
  ⟨fun b _ => getLsbD_elemOfBlock_reflected b, fun b _ => getLsbD_elemOfBlock_natural b, blockOfElem_eq_iff,
    fun _ _ _ => rfl, blockOfElem_reflected_twoPow (i := 0) (by decide),
    blockOfElem_reflected_twoPow (i := 1) (by decide), blockOfElem_reflected_twoPow (i := 127) (by decide), rfl⟩

/-! ## GFMUL -/

section
variable {s : State}

theorem gfmulBody_mem : (gfmulBody s).mem = memWriteBytes s.mem (xval s 2)
    (bytesOfBlock (gfMulBlk s.params.bitOrder (blockAt s (xval s 0)) (blockAt s (xval s 1)))) := rfl

theorem forall_mem_gfmul_buffers : (∀ b ∈ namedBuffers .gfmul s, Reachable s.params b) ↔
    Reachable s.params ⟨xval s 0, 16⟩ ∧ Reachable s.params ⟨xval s 1, 16⟩ ∧
      Reachable s.params ⟨xval s 2, 16⟩ := by
  simp [namedBuffers]

theorem gfmulBody_holdsBytes (hwf : Memory.wf s.mem = true) : HoldsBytes (gfmulBody s) (xval s 2)
    (bytesOfBlock (gfMulBlk s.params.bitOrder (blockAt s (xval s 0)) (blockAt s (xval s 1)))) :=
  holdsBytes_of_mem (b := ⟨xval s 2, 16⟩) gfmulBody_mem hwf

theorem gfmulBody_sameOutside : SameOutside [⟨xval s 2, 16⟩] s (gfmulBody s) :=
  sameOutside_of_mem gfmulBody_mem (bytesOfBlock_length _)

theorem gfmulBody_sameHostSide : SameHostSide s (gfmulBody s) := by
  simp [SameHostSide, gfmulBody]

theorem gfmulBody_sameBank : SameBank s (gfmulBody s) := by
  simp [SameBank, gfmulBody]

end

/-- Settles O41: there is no check, so the three buffers alone decide between the fault and the body. -/
theorem gfmulMultipliesBlocks : Obligations.GfmulMultipliesBlocks := by
  refine ⟨rfl, fun s => ⟨fun hreach => ?faults, fun hreach hwf => ?multiplies⟩⟩
  case faults =>
    exact runCommand_fault_iff.2 ⟨rfl, fun h => hreach (forall_mem_gfmul_buffers.1 h), rfl⟩
  case multiplies =>
    exact ⟨gfmulBody s, runCommand_body rfl (forall_mem_gfmul_buffers.2 hreach), gfmulBody_holdsBytes hwf,
      gfmulBody_sameOutside, gfmulBody_sameHostSide, gfmulBody_sameBank, rfl, rfl⟩

end Sys2Proof.Proofs

/-! # GHASH: the length block, and the command

A command without parameter checks whose body only stores one Block is described once, for any such body. -/

namespace Sys2Proof.Proofs

open Sys2Proof.Machine Sys2Proof.Safety

/-- Settles O42: the two halves do not overlap, so the AAD's is worth `2^64` times the data's. -/
theorem lengthBlockValue : Obligations.LengthBlockValue := by
  intro a d
  rw [lenBlock, toNat_append_eq_add, BitVec.toNat_ofNat, BitVec.toNat_ofNat, Nat.mul_comm]

section
variable {s : State} {bs : List Buffer} {body : State → State} {dst : Buffer} {v : Block}

/-- With its buffers accessible, a command that stores one Block and ends `Ok` changes nothing else but the
flags (`30_encoding.md` R81). -/
theorem runCommand_stores_block (hbody : body s = endCommand .ok 0 (writeBuffer dst (bytesOfBlock v) s))
    (hlen : dst.len = 16) (hbs : ∀ b ∈ bs, Reachable s.params b) (hwf : Memory.wf s.mem = true) :
    ∃ t, runCommand noCheck bs body s = .next t ∧ HoldsBytes t dst.addr (bytesOfBlock v) ∧
      SameOutside [dst] s t ∧ SameHostSide s t ∧ SameBank s t ∧ t.err = 0 ∧ t.bkused = 0 := by
  have hmem : (body s).mem = memWriteBytes s.mem dst.addr (bytesOfBlock v) := by rw [hbody]; rfl
  have hlength : (bytesOfBlock v).length = dst.len := by rw [bytesOfBlock_length, hlen]
  refine ⟨body s, runCommand_body rfl hbs, holdsBytes_of_mem hmem hwf, sameOutside_of_mem hmem hlength, ?_⟩
  simp [hbody, SameHostSide, SameBank, errorCode]

theorem forall_mem_ghash_buffers : (∀ b ∈ namedBuffers .ghash s, Reachable s.params b) ↔
    Reachable s.params ⟨xval s 0, 16⟩ ∧ Reachable s.params ⟨xval s 1, xval s 2⟩ ∧
      Reachable s.params ⟨xval s 3, xval s 4⟩ ∧ Reachable s.params ⟨xval s 5, 16⟩ := by
  simp [namedBuffers]

end

/-- Settles O45: there is no check, so the four buffers alone decide between the fault and the body, which
stores the hash. -/
theorem ghashHashesBuffers : Obligations.GhashHashesBuffers := by
  refine ⟨rfl, fun s => ⟨fun hreach => ?faults, fun hreach hwf => ?hashes⟩⟩
  case faults =>
    exact runCommand_fault_iff.2 ⟨rfl, fun h => hreach (forall_mem_ghash_buffers.1 h), rfl⟩
  case hashes =>
    exact runCommand_stores_block (dst := ghashDst s) rfl rfl (forall_mem_ghash_buffers.2 hreach) hwf

end Sys2Proof.Proofs

/-! # Counter blocks, and the command INC32 -/

namespace Sys2Proof.Proofs

open Sys2Proof.Machine Sys2Proof.Safety

/-! ## The counter block `n` places on -/

/-- The counter block `n` increments after `cb`: the upper 96 bits stay, the 32-bit field wraps
(`48_gcm.md` R231, R235). -/
def counterAt (cb : Block) (n : Nat) : Block :=
  BitVec.ofNat 128 (2 ^ 32 * (cb.toNat / 2 ^ 32) + (cb.toNat + n) % 2 ^ 32)

section
variable (cb : Block) (n : Nat)

theorem counterAt_toNat : (counterAt cb n).toNat = 2 ^ 32 * (cb.toNat / 2 ^ 32) + (cb.toNat + n) % 2 ^ 32 := by
  rw [counterAt, BitVec.toNat_ofNat]
  omega

theorem inc32Of_eq_counterAt : inc32Of cb = counterAt cb 1 := by
  apply BitVec.eq_of_toNat_eq
  rw [counterAt_toNat, inc32Of, toNat_append_eq_add, BitVec.toNat_add, BitVec.extractLsb'_toNat,
    BitVec.extractLsb'_toNat, Nat.shiftRight_eq_div_pow, Nat.shiftRight_zero]
  simp only [BitVec.toNat_ofNat]
  omega

theorem counterAt_counterAt (m : Nat) : counterAt (counterAt cb m) n = counterAt cb (m + n) := by
  apply BitVec.eq_of_toNat_eq
  rw [counterAt_toNat, counterAt_toNat, counterAt_toNat]
  omega

theorem counterAt_inc32Of : counterAt (inc32Of cb) n = counterAt cb (n + 1) := by
  rw [inc32Of_eq_counterAt, counterAt_counterAt, Nat.add_comm]

theorem blockByte_toNat (b : Block) (i : Nat) : (blockByte b i).toNat = b.toNat / 2 ^ (120 - 8 * i) % 2 ^ 8 := by
  rw [blockByte, BitVec.toNat_setWidth, BitVec.toNat_ushiftRight, Nat.shiftRight_eq_div_pow]

theorem counterAt_toNat_div : (counterAt cb n).toNat / 2 ^ 32 = cb.toNat / 2 ^ 32 := by
  rw [counterAt_toNat]
  omega

theorem counterAt_toNat_mod : (counterAt cb n).toNat % 2 ^ 32 = (cb.toNat + n) % 2 ^ 32 := by
  rw [counterAt_toNat]
  omega

/-- The first 12 bytes of a Block lie above its 32-bit field. -/
theorem blockByte_counterAt {i : Nat} (hi : i < 12) : blockByte (counterAt cb n) i = blockByte cb i := by
  have hsplit : 2 ^ (120 - 8 * i) = 2 ^ 32 * 2 ^ (88 - 8 * i) := by rw [← Nat.pow_add]; congr 1; omega
  apply BitVec.eq_of_toNat_eq
  rw [blockByte_toNat, blockByte_toNat, hsplit, ← Nat.div_div_eq_div_mul, ← Nat.div_div_eq_div_mul,
    counterAt_toNat_div]

end

/-- Settles O46: the increment is one place on, and a place on leaves all above the 32-bit field. -/
theorem incrementTouchesCounterOnly : Obligations.IncrementTouchesCounterOnly := by
  intro cb
  rw [inc32Of_eq_counterAt]
  refine ⟨fun i hi => blockByte_counterAt cb 1 hi, ?_⟩
  rw [counterAt_toNat_mod, Nat.mod_add_mod]

/-! ## INC32 -/

theorem forall_mem_inc32_buffers {s : State} : (∀ b ∈ namedBuffers .inc32 s, Reachable s.params b) ↔
    Reachable s.params ⟨xval s 0, 16⟩ ∧ Reachable s.params ⟨xval s 1, 16⟩ := by
  simp [namedBuffers]

/-- Settles O47: there is no check, so the two buffers alone decide between the fault and the body, which
stores the incremented block. -/
theorem inc32IncrementsBlock : Obligations.Inc32IncrementsBlock := by
  refine ⟨rfl, fun s => ⟨fun hreach => ?faults, fun hreach hwf => ?increments⟩⟩
  case faults =>
    exact runCommand_fault_iff.2 ⟨rfl, fun h => hreach (forall_mem_inc32_buffers.1 h), rfl⟩
  case increments =>
    exact runCommand_stores_block (dst := inc32Dst s) rfl rfl (forall_mem_inc32_buffers.2 hreach) hwf

end Sys2Proof.Proofs

/-! # The initial counter block, and counter mode

Counter mode XORs byte `i` of its input with a byte that depends on `i` alone (`48_gcm.md` R235): so it keeps
the length, and doing it twice is nothing. -/

namespace Sys2Proof.Proofs

open Sys2Proof.Machine Sys2Proof.Safety

/-! ## `J0` -/

theorem lenBlock_zero_left (n : Nat) : lenBlock 0 n = BitVec.ofNat 128 (8 * n % 2 ^ 64) := by
  apply BitVec.eq_of_toNat_eq
  rw [lengthBlockValue, BitVec.toNat_ofNat]
  omega

section
variable (o : Config.BitOrder) (h : Block) {iv : List Byte}

theorem gcmJ0_of_length_eq (hiv : iv.length = 12) : gcmJ0 o h iv = blockOfBytes (iv ++ [0, 0, 0, 1]) :=
  if_pos hiv

theorem gcmJ0_of_length_ne (hiv : iv.length ≠ 12) : gcmJ0 o h iv = ghashOf o h [] iv := if_neg hiv

/-- With no AAD there is no block to absorb before the data. -/
theorem ghashOf_nil_aad (data : List Byte) : ghashOf o h [] data =
    absorb o h ((paddedBlocks data).foldl (absorb o h) 0) (lenBlock 0 data.length) := rfl

end

/-- Settles O48: the two branches of R234, the second with GHASH unfolded. -/
theorem initialCounterBlock : Obligations.InitialCounterBlock := by
  intro o h iv
  refine ⟨fun hiv => ?twelve, fun hiv => ⟨gcmJ0_of_length_ne o h hiv, ?unfolded⟩⟩
  case twelve => rw [gcmJ0_of_length_eq o h hiv, bytesOfBlock_blockOfBytes (by simp [hiv])]
  case unfolded =>
    rw [gcmJ0_of_length_ne o h hiv, ghashOf_nil_aad, lenBlock_zero_left]
    rfl

/-! ## Byte by byte -/

section
variable (rk : List Word32) (j0 : Block)

/-- Byte `i` of the keystream from `j0` on: a byte of the encrypted counter block that is incremented before use
(`48_gcm.md` R235). -/
def keystreamByte (i : Nat) : Byte := blockByte (crypt rk (counterAt j0 (i / 16 + 1))) (i % 16)

theorem keystreamByte_of_lt {i : Nat} (hi : i < 16) :
    keystreamByte rk j0 i = blockByte (crypt rk (inc32Of j0)) i := by
  rw [keystreamByte, Nat.div_eq_of_lt hi, Nat.mod_eq_of_lt hi, inc32Of_eq_counterAt]

/-- The keystream without its first block is the keystream of the next counter block. -/
theorem keystreamByte_add_sixteen (i : Nat) : keystreamByte rk j0 (i + 16) = keystreamByte rk (inc32Of j0) i := by
  rw [keystreamByte, keystreamByte, counterAt_inc32Of, Nat.add_mod_right, Nat.add_div_right i (by decide)]

/-- The bytes XORed with the keystream in the same places. -/
def streamed (d : List Byte) : List Byte := d.mapIdx fun i b => b ^^^ keystreamByte rk j0 i

@[simp] theorem streamed_length (d : List Byte) : (streamed rk j0 d).length = d.length := List.length_mapIdx

theorem streamed_getElem? {d : List Byte} {i : Nat} (hi : i < d.length) :
    (streamed rk j0 d)[i]? = some (d[i] ^^^ keystreamByte rk j0 i) := by
  simp [streamed, hi]

theorem streamed_streamed (d : List Byte) : streamed rk j0 (streamed rk j0 d) = d := by
  apply List.ext_getElem
  · simp
  · intro i _ _
    simp [streamed]

/-- At most 16 bytes take their keystream from the first block. -/
theorem streamed_of_length_le {d : List Byte} (hd : d.length ≤ 16) :
    streamed rk j0 d = xorBytes d (bytesOfBlock (crypt rk (inc32Of j0))) := by
  apply List.ext_getElem
  · simp [xorBytes, hd]
  · intro i hi _
    rw [streamed_length] at hi
    simp [streamed, xorBytes, bytesOfBlock_getElem, keystreamByte_of_lt rk j0 (hi.trans_le hd)]

/-- The rest of the bytes start a keystream of their own, from the next counter block. -/
theorem streamed_eq_append (d : List Byte) :
    streamed rk j0 d = streamed rk j0 (d.take 16) ++ streamed rk (inc32Of j0) (d.drop 16) := by
  obtain hd | hd := Nat.le_total d.length 16
  · simp [List.take_of_length_le hd, List.drop_of_length_le hd, streamed]
  · have hlen : (d.take 16).length = 16 := List.length_take_of_le hd
    conv_lhs => rw [← List.take_append_drop 16 d, streamed, List.mapIdx_append, hlen]
    simp only [keystreamByte_add_sixteen, streamed]

/-- `Ctr` block by block is the keystream byte by byte, once there are blocks for every byte. -/
theorem ctrBlocks_eq_streamed {q : Nat} {d : List Byte} (hq : d.length ≤ 16 * q) :
    ctrBlocks rk q j0 d = streamed rk j0 d := by
  induction q generalizing j0 d with
  | zero => rw [List.eq_nil_of_length_eq_zero (Nat.le_zero.1 hq)]; rfl
  | succ q ih =>
    rw [ctrBlocks, ih (inc32Of j0) (by rw [List.length_drop]; omega), streamed_eq_append rk j0,
      streamed_of_length_le rk j0 (List.length_take_le 16 d)]

theorem ctr_eq_streamed (d : List Byte) : ctr rk j0 d = streamed rk j0 d :=
  ctrBlocks_eq_streamed rk j0 (by rw [ceilDiv16]; omega)

theorem ctr_length (d : List Byte) : (ctr rk j0 d).length = d.length := by
  rw [ctr_eq_streamed, streamed_length]

end

/-- Settles O49: counter mode is the keystream XORed in, and XORing it in twice is nothing. -/
theorem counterModeBytes : Obligations.CounterModeBytes := by
  refine fun rk j0 d => ⟨ctr_length rk j0 d, fun i hi => ?_, ?_⟩
  · rw [ctr_eq_streamed, streamed_getElem? rk j0 hi, keystreamByte, counterAt]
    rfl
  · rw [ctr_eq_streamed, ctr_eq_streamed, streamed_streamed]

end Sys2Proof.Proofs

/-! # GCMENC and GCMDEC

Both commands load the bank, store one buffer of `X7` bytes and end; GCMENC stores the tag after it
(`48_gcm.md` R236, R240). What they store is what the claims' terms name, since those read the same buffers. -/

namespace Sys2Proof.Proofs

open Sys2Proof.Machine Sys2Proof.Safety

/-! ## The parameter checks -/

section
variable {i : Instr} {s : State}

theorem gcmCheck_of_key_length (hkey : xval s 1 ≠ 16) : gcmCheck s = .invalidKeyLength := if_pos hkey

theorem gcmCheck_of_iv_length (hkey : xval s 1 = 16) (hiv : xval s 3 < 8 ∨ 1024 < xval s 3) :
    gcmCheck s = .invalidIvLength := by
  rw [gcmCheck, if_neg (not_not.2 hkey), if_pos hiv]

theorem gcmCheck_of_tag_length (hkey : xval s 1 = 16) (hlo : 8 ≤ xval s 3) (hhi : xval s 3 ≤ 1024)
    (htag : xval s 10 < 4 ∨ 16 < xval s 10) : gcmCheck s = .invalidTagLength := by
  rw [gcmCheck, if_neg (not_not.2 hkey), if_neg (by omega), if_pos htag]

/-- Whatever else is wrong, the check that fails decides (`48_gcm.md` R238). -/
theorem exec_gcm_raise (hi : i = .gcmenc ∨ i = .gcmdec) {e : ErrorKind} (he : gcmCheck s = e) (hne : e ≠ .ok) :
    exec i s = .next { s with err := errorCode e, bkused := 0 } := by
  subst he
  obtain rfl | rfl := hi
  · exact runCommand_raise hne
  · exact runCommand_raise hne

end

/-- Settles O51: each length out of its range, with those before it in theirs, names the check that fails. -/
theorem gcmParameterChecks : Obligations.GcmParameterChecks := fun _ _ hi =>
  ⟨fun hkey => exec_gcm_raise hi (gcmCheck_of_key_length hkey) (by decide),
    fun hkey hiv => exec_gcm_raise hi (gcmCheck_of_iv_length hkey hiv) (by decide),
    fun hkey hlo hhi htag => exec_gcm_raise hi (gcmCheck_of_tag_length hkey hlo hhi htag) (by decide)⟩

/-! ## What the commands compute -/

section
variable (s : State)

theorem gcmStart_eq_gcmCounter0 : gcmStart s = gcmCounter0 s := by
  have hlen : (readBuffer s (gcmIv s)).length = xval s 3 := memReadBytes_length _ _ _
  rw [gcmStart, gcmCounter0]
  split_ifs with h
  · rw [gcmJ0_of_length_eq _ _ (hlen.trans h), ← h]
    rfl
  · rw [gcmJ0_of_length_ne _ _ (hlen ▸ h)]
    rfl

theorem gcmCtr_eq_gcmStreamed : gcmCtr s = gcmStreamed s := by
  rw [gcmCtr, gcmStart_eq_gcmCounter0]
  rfl

theorem gcmTagOf_eq_gcmTagOver (c : List Byte) : gcmTagOf s c = gcmTagOver s c := by
  rw [gcmTagOf, gcmStart_eq_gcmCounter0]
  rfl

theorem gcmStreamed_length : (gcmStreamed s).length = xval s 7 := by
  rw [gcmStreamed, ctr_length, gcmInputBytes, memReadBytes_length]

variable {s}

/-- A legal tag length is at most the 16 bytes there are (`48_gcm.md` R237, R238). -/
theorem gcmTagOver_length (h : GcmLengthsOk s) (c : List Byte) : (gcmTagOver s c).length = xval s 10 := by
  obtain ⟨-, -, -, htag⟩ := h
  rw [gcmTagOver, List.length_take_of_le (by rwa [bytesOfBlock_length])]

end

/-! ## The comparison of tags -/

section
variable {a b : List Byte} {n : Nat}

theorem tagDiff_eq_zero_iff : tagDiff a b n = 0 ↔ ∀ i < n, a.getD i 0 = b.getD i 0 := by
  induction n with
  | zero => simp [tagDiff]
  | succ n ih =>
    rw [Nat.forall_lt_succ_right, ← ih]
    simp [tagDiff]

/-- The OR of the differences is zero exactly when no byte differs (`48_gcm.md` R239). -/
theorem tagEqual_iff_eq (ha : a.length = n) (hb : b.length = n) : tagEqual a b n = true ↔ a = b := by
  rw [tagEqual, beq_iff_eq, tagDiff_eq_zero_iff]
  refine ⟨fun h => List.ext_getElem (ha.trans hb.symm) fun i hi hj => ?_, fun h _ _ => h ▸ rfl⟩
  simpa [hi, hj] using h i (ha ▸ hi)

/-- GCMDEC's decision, in the terms of the claims. -/
theorem gcmVerifies_iff {s : State} (h : GcmLengthsOk s) : gcmVerifies s = true ↔
    gcmTagOver s (gcmInputBytes s) = memReadBytes s.mem (xval s 9) (xval s 10) := by
  rw [gcmVerifies, gcmTagOf_eq_gcmTagOver]
  exact tagEqual_iff_eq (gcmTagOver_length h _) (memReadBytes_length _ _ _)

end

/-! ## What the commands leave -/

section
variable {s t u : State}

theorem sameOutside_trans {bs cs : List Buffer} (h : SameOutside bs s t) (h' : SameOutside cs t u) :
    SameOutside (bs ++ cs) s u := by
  intro a ha
  rw [h' a fun c hc => ha c (List.mem_append_right bs hc), h a fun b hb => ha b (List.mem_append_left cs hb)]

/-- The bank loaded and `bs` stored in the output buffer: what both commands do first. -/
def gcmStored (bs : List Byte) (s : State) : State := writeBuffer (gcmOutput s) bs (loadBank (gcmBank s) s)

variable {bs : List Byte}

theorem gcmStored_mem : (gcmStored bs s).mem = memWriteBytes s.mem (gcmOutput s).addr bs := rfl

theorem gcmStored_wf (hwf : Memory.wf s.mem = true) : Memory.wf (gcmStored bs s).mem = true :=
  memWriteBytes_wf hwf _ _

theorem gcmStored_holdsBytes (hwf : Memory.wf s.mem = true) : HoldsBytes (gcmStored bs s) (xval s 8) bs :=
  holdsBytes_of_mem gcmStored_mem hwf

theorem gcmStored_sameOutside (hlen : bs.length = xval s 7) :
    SameOutside [⟨xval s 8, xval s 7⟩] s (gcmStored bs s) :=
  sameOutside_of_mem gcmStored_mem hlen

end

section
variable {s : State}

theorem gcmencBody_eq : gcmencBody s = endCommand .ok 0
    (writeBuffer (gcmTag s) (gcmTagOver s (gcmStreamed s)) (gcmStored (gcmStreamed s) s)) := by
  rw [gcmencBody, gcmCtr_eq_gcmStreamed, gcmTagOf_eq_gcmTagOver, gcmStored]

theorem gcmencBody_mem : (gcmencBody s).mem =
    memWriteBytes (gcmStored (gcmStreamed s) s).mem (gcmTag s).addr (gcmTagOver s (gcmStreamed s)) := by
  rw [gcmencBody_eq]
  rfl

/-- The tag changes nothing outside its own buffer. -/
theorem gcmencBody_sameOutside_gcmStored (h : GcmLengthsOk s) :
    SameOutside [⟨xval s 9, xval s 10⟩] (gcmStored (gcmStreamed s) s) (gcmencBody s) :=
  sameOutside_of_mem gcmencBody_mem (gcmTagOver_length h _)

theorem gcmencBody_holds_tag (hwf : Memory.wf s.mem = true) :
    HoldsBytes (gcmencBody s) (xval s 9) (gcmTagOver s (gcmStreamed s)) :=
  holdsBytes_of_mem (b := gcmTag s) gcmencBody_mem (gcmStored_wf hwf)

theorem gcmencBody_holds_ciphertext (h : GcmLengthsOk s) (hwf : Memory.wf s.mem = true) {k : Nat}
    (hk : k < (gcmStreamed s).length) (hout : ¬ inBuffer ⟨xval s 9, xval s 10⟩ (xval s 8 + k)) :
    memRead (gcmencBody s).mem (xval s 8 + k) = (gcmStreamed s)[k] :=
  calc memRead (gcmencBody s).mem (xval s 8 + k)
      = memRead (gcmStored (gcmStreamed s) s).mem (xval s 8 + k) :=
        gcmencBody_sameOutside_gcmStored h _ (List.forall_mem_singleton.2 hout)
    _ = (gcmStreamed s)[k] := gcmStored_holdsBytes hwf k hk

theorem gcmencBody_sameOutside (h : GcmLengthsOk s) :
    SameOutside [⟨xval s 8, xval s 7⟩, ⟨xval s 9, xval s 10⟩] s (gcmencBody s) :=
  sameOutside_trans (gcmStored_sameOutside (gcmStreamed_length s)) (gcmencBody_sameOutside_gcmStored h)

theorem gcmdecBody_of_match (h : GcmLengthsOk s)
    (ok : gcmTagOver s (gcmInputBytes s) = memReadBytes s.mem (xval s 9) (xval s 10)) :
    gcmdecBody s = endCommand .ok 0 (gcmStored (gcmStreamed s) s) := by
  rw [gcmdecBody, if_pos ((gcmVerifies_iff h).2 ok), gcmCtr_eq_gcmStreamed, gcmStored]

theorem gcmdecBody_of_mismatch (h : GcmLengthsOk s)
    (ok : gcmTagOver s (gcmInputBytes s) ≠ memReadBytes s.mem (xval s 9) (xval s 10)) :
    gcmdecBody s = endCommand .authenticationFailure 0 (gcmStored (List.replicate (xval s 7) 0) s) :=
  if_neg fun hv => ok ((gcmVerifies_iff h).1 hv)

end

/-- Settles O52: the tag is stored after the ciphertext, so it wins where they overlap. -/
theorem gcmencEncryptsAndTags : Obligations.GcmencEncryptsAndTags := by
  refine ⟨rfl, fun s hlen => ⟨fun hreach => ?faults, fun hreach hwf => ?encrypts⟩⟩
  case faults => exact runCommand_fault_iff.2 ⟨(gcmCheck_ok_iff s).2 hlen, hreach, rfl⟩
  case encrypts =>
    exact ⟨gcmencBody s, runCommand_body ((gcmCheck_ok_iff s).2 hlen) hreach, gcmencBody_holds_tag hwf,
      fun k => gcmencBody_holds_ciphertext hlen hwf, gcmStreamed_length s, gcmTagOver_length hlen _,
      gcmencBody_sameOutside hlen, ⟨rfl, rfl, rfl, rfl⟩, rfl, rfl, rfl, rfl⟩

/-- Settles O53: either way the body stores `X7` bytes, the plaintext or zeros. -/
theorem gcmdecVerifiesThenReleases : Obligations.GcmdecVerifiesThenReleases := by
  refine ⟨rfl, fun s hlen => ⟨fun hreach => ?faults, fun hreach hwf => ?decides⟩⟩
  case faults => exact runCommand_fault_iff.2 ⟨(gcmCheck_ok_iff s).2 hlen, hreach, rfl⟩
  case decides =>
    refine ⟨gcmdecBody s, runCommand_body ((gcmCheck_ok_iff s).2 hlen) hreach, ?_⟩
    by_cases ok : gcmTagOver s (gcmInputBytes s) = memReadBytes s.mem (xval s 9) (xval s 10)
    · rw [gcmdecBody_of_match hlen ok]
      exact ⟨fun _ => ⟨gcmStored_holdsBytes hwf, gcmStreamed_length s, rfl⟩, fun hno => absurd ok hno,
        gcmStored_sameOutside (gcmStreamed_length s), ⟨rfl, rfl, rfl, rfl⟩, rfl, rfl, rfl⟩
    · rw [gcmdecBody_of_mismatch hlen ok]
      exact ⟨fun h => absurd h ok, fun _ => ⟨gcmStored_holdsBytes hwf, rfl⟩,
        gcmStored_sameOutside List.length_replicate, ⟨rfl, rfl, rfl, rfl⟩, rfl, rfl, rfl⟩

end Sys2Proof.Proofs

/-! # Errors, and the missing key

A failed check raises its kind and touches nothing else; a body ends `Ok`, but for GCMDEC's on a mismatch
(`60_exceptions.md` R263). So the code a command ends with says which of the two happened. -/

namespace Sys2Proof.Proofs

open Sys2Proof.Machine Sys2Proof.Safety

/-! ## Which kinds a check can fail with -/

/-- No two kinds of `60_exceptions.md` R260 share a code. -/
theorem errorCode_injective : Function.Injective errorCode := by
  intro a b
  cases a <;> cases b <;> decide

section
variable {i : Instr} {s t : State}

theorem kexpCheck_mem : kexpCheck s ∈ [ErrorKind.ok, .invalidKeyLength] := by
  unfold kexpCheck; split <;> simp

theorem keyedCheck_mem : keyedCheck s ∈ [ErrorKind.ok, .noKey] := by
  unfold keyedCheck; split <;> simp

theorem gcmCheck_mem :
    gcmCheck s ∈ [ErrorKind.ok, .invalidKeyLength, .invalidIvLength, .invalidTagLength] := by
  unfold gcmCheck; split_ifs <;> simp

/-- The checks of a command that needs no key are about lengths only. -/
theorem commandCheck_mem_of_keyless (h : needsKey i = false) :
    commandCheck i s ∈ [ErrorKind.ok, .invalidKeyLength, .invalidIvLength, .invalidTagLength] := by
  cases i
  case kexp => exact List.mem_append_left [.invalidIvLength, .invalidTagLength] kexpCheck_mem
  case gcmenc | gcmdec => exact gcmCheck_mem
  case gfmul | ghash | inc32 => exact List.mem_cons_self
  all_goals cases h

theorem commandCheck_ne_authenticationFailure : commandCheck i s ≠ .authenticationFailure := by
  intro h
  cases hk : needsKey i
  · have hm := commandCheck_mem_of_keyless (s := s) hk
    simp [h] at hm
  · have hm := keyedCheck_mem (s := s)
    simp [← commandCheck_of_needsKey hk, h] at hm

/-- `NoKey` is raised only for want of a key (`60_exceptions.md` R266). -/
theorem commandCheck_ne_noKey (hv : s.rkv = true) : commandCheck i s ≠ .noKey := by
  intro h
  cases hk : needsKey i
  · have hm := commandCheck_mem_of_keyless (s := s) hk
    simp [h] at hm
  · rw [commandCheck_of_needsKey hk, (keyedCheck_ok_iff s).2 hv] at h
    cases h

/-! ## How the bodies end -/

theorem gcmdecBody_cases : gcmdecBody s = endCommand .ok 0 (gcmStored (gcmCtr s) s) ∨
    gcmdecBody s = endCommand .authenticationFailure 0 (gcmStored (List.replicate (xval s 7) 0) s) := by
  unfold gcmdecBody
  split
  · exact .inl rfl
  · exact .inr rfl

/-- Only GCMDEC's body can end with another code than 0 (`60_exceptions.md` R269). -/
theorem commandBody_err_cases : (commandBody i s).err = 0 ∨ i = .gcmdec ∧
    commandBody i s = endCommand .authenticationFailure 0 (gcmStored (List.replicate (xval s 7) 0) s) := by
  cases i
  case gcmdec => exact gcmdecBody_cases.imp (congrArg State.err) (⟨rfl, ·⟩)
  all_goals exact .inl rfl

theorem commandBody_rkv_of_writesBank (h : writesBank i = true) : (commandBody i s).rkv = true := by
  cases i
  case kexp | gcmenc => rfl
  case gcmdec => exact gcmdecBody_cases.elim (congrArg State.rkv) (congrArg State.rkv)
  all_goals cases h

theorem commandBody_rkv_of_loaded (hv : s.rkv = true) : (commandBody i s).rkv = true := by
  cases hw : writesBank i
  · rw [commandBody_rkv hw, hv]
  · exact commandBody_rkv_of_writesBank hw

/-! ## What a command's code says about its outcome -/

/-- An outcome with a code other than 0 and 4 was raised by a failed check (`60_exceptions.md` R263). -/
theorem exec_raised (h : exec i s = .next t) (h0 : t.err ≠ 0) (h4 : t.err ≠ 4) :
    commandCheck i s ≠ .ok ∧ t = raise (commandCheck i s) s := by
  obtain hraised | ⟨-, -, rfl⟩ := exec_next_iff.1 h
  · exact hraised
  · obtain herr | ⟨-, hbody⟩ := commandBody_err_cases (i := i) (s := s)
    · exact absurd herr h0
    · exact absurd (congrArg State.err hbody) h4

/-- An outcome with code 0 or 4 was computed by the body (`60_exceptions.md` R263). -/
theorem exec_completed (h : exec i s = .next t) (herr : t.err = 0 ∨ t.err = 4) : t = commandBody i s := by
  obtain ⟨hne, rfl⟩ | ⟨-, -, ht⟩ := exec_next_iff.1 h
  · obtain h0 | h4 := herr
    · exact absurd (errorCode_injective (a₂ := .ok) h0) hne
    · exact absurd (errorCode_injective (a₂ := .authenticationFailure) h4) commandCheck_ne_authenticationFailure
  · exact ht

theorem exec_authenticationFailure (h : exec i s = .next t) (h4 : t.err = 4) : i = .gcmdec ∧
    t = endCommand .authenticationFailure 0 (gcmStored (List.replicate (xval s 7) 0) s) := by
  obtain rfl := exec_completed h (.inr h4)
  refine commandBody_err_cases.resolve_left fun h0 => ?_
  rw [h0] at h4
  exact absurd h4 (by decide)

/-- The checks of phase 2 are on registers and flags: they read no byte of memory. -/
theorem commandCheck_withMem (m : Memory) : commandCheck i { s with mem := m } = commandCheck i s := by
  cases i <;> rfl

theorem exec_of_check_failed (h : commandCheck i s ≠ .ok) : exec i s = .next (raise (commandCheck i s) s) :=
  exec_next_iff.2 (.inl ⟨h, rfl⟩)

theorem gcmStored_zeros (hwf : Memory.wf s.mem = true) {n k : Nat} (hk : k < n) :
    memRead (gcmStored (List.replicate n 0) s).mem (xval s 8 + k) = 0 := by
  rw [gcmStored_holdsBytes hwf k (by rwa [List.length_replicate]), List.getElem_replicate]

end

/-- Settles O14: a raised check writes the flags alone, and with any other memory the same check fails; code 4
is the end of GCMDEC's body on a mismatch. -/
theorem errorsChangeNothingElse : Obligations.ErrorsChangeNothingElse := by
  refine ⟨fun s w rest hp hd => ?reserved, fun i s t h => ⟨fun h0 h4 => ?raised, fun h4 hwf => ?mismatch⟩⟩
  case reserved =>
    calc step s = commandWrite w { s with pending := rest } := step_eq_hostEvent hp
      _ = _ := commandWrite_of_not_decode fun ⟨i, hi⟩ => hd i hi
  case raised =>
    obtain ⟨hne, rfl⟩ := exec_raised h h0 h4
    refine ⟨rfl, fun m => ?_⟩
    rw [exec_of_check_failed (by rwa [commandCheck_withMem]), commandCheck_withMem]
    rfl
  case mismatch =>
    obtain ⟨rfl, rfl⟩ := exec_authenticationFailure h h4
    exact ⟨rfl, fun k hk => gcmStored_zeros hwf hk, rfl, rfl⟩

/-! ## A key once loaded stays until reset -/

section
variable {i : Instr} {s t : State}

theorem exec_keeps_rkv (hv : s.rkv = true) (h : exec i s = .next t) : t.rkv = true := by
  obtain ⟨-, rfl⟩ | ⟨-, -, rfl⟩ := exec_next_iff.1 h
  · exact hv
  · exact commandBody_rkv_of_loaded hv

theorem hostEvent_keeps_rkv {e : HostEvent} (hv : s.rkv = true) (he : e ≠ .reset)
    (h : hostEvent e s = .next t) : t.rkv = true := by
  obtain ⟨_, w, -, -, hcmd⟩ | ⟨_, v, j, -, -, rfl⟩ | ⟨_, v, -, rfl⟩ | ⟨_, r, -, -, rfl⟩ | ⟨a, b, -, rfl⟩ |
    ⟨hreset, -⟩ := hostEvent_next_cases h
  · obtain ⟨i, -, hexec⟩ | ⟨_, -, rfl⟩ := commandWrite_next_cases hcmd
    · exact exec_keeps_rkv hv hexec
    · exact hv
  · exact hv
  · exact hv
  · exact hv
  · exact hv
  · exact absurd hreset he

theorem step_keeps_rkv (hv : s.rkv = true) (h : step s = .next t) (hr : s.pending.head? ≠ some .reset) :
    t.rkv = true := by
  obtain ⟨-, rfl⟩ | ⟨e, rest, hp, hevent⟩ := step_next_cases h
  · exact hv
  · have he : e ≠ .reset := by
      rintro rfl
      exact hr (congrArg List.head? hp)
    exact hostEvent_keeps_rkv (s := { s with pending := rest }) hv he hevent

/-- `NoKey` cannot occur while `RKV` is 1: no check raises it and no body ends with it. -/
theorem exec_err_ne_noKey (hv : s.rkv = true) (h : exec i s = .next t) : t.err ≠ 5 := by
  intro h5
  obtain ⟨-, rfl⟩ := exec_raised h (by rw [h5]; decide) (by rw [h5]; decide)
  exact commandCheck_ne_noKey hv (errorCode_injective (a₂ := .noKey) h5)

end

/-- Settles O20: without a key the check of a block command fails first; only a reset clears `RKV`, and the
bodies of KEXP, GCMENC and GCMDEC set it. -/
theorem missingKeyRaisesNoKey : Obligations.MissingKeyRaisesNoKey := by
  refine ⟨fun i s hk hv => ?noKey, fun s t hv h => step_keeps_rkv hv h, fun i s t => exec_err_ne_noKey,
    fun i s t hw h herr => ?loads⟩
  case noKey => exact (exec_next_iff_of_needsKey hk).2 (.inl ⟨hv, rfl⟩)
  case loads => exact exec_completed h herr ▸ commandBody_rkv_of_writesBank hw

end Sys2Proof.Proofs

/-! # The backends compute the network

Both vector units build the S-box in their own way, and each of their lanes runs the round of
`40_sm4_primitives.md` R109; so a backend's computation is the network's, block by block, and the dispatcher's
output does not depend on which backends it picks (`45_dispatch.md` section 1). -/

namespace Sys2Proof.Proofs

open Sys2Proof.Machine Sys2Proof.Safety

/-! ## The recurrence of the network -/

theorem foldl_feistelRound_range {t : Word32 → Word32} {k : Nat → Word32} {a : Words} (n : Nat) :
    ((List.range n).map k).foldl (feistelRound t) a = networkState t k a n := by
  induction n with
  | zero => rfl
  | succ n ih => rw [List.range_succ, List.map_append, List.foldl_append, ih]; rfl

/-- Round key `i` of a sequence of round keys. -/
def keyAt (ks : List Word32) (i : Nat) : Word32 := ks.getD i 0

theorem map_keyAt (ks : List Word32) : (List.range ks.length).map (keyAt ks) = ks := by
  apply List.ext_getElem
  · simp
  · intro i _ hi
    rw [List.getElem_map, List.getElem_range, keyAt, List.getD_eq_getElem _ _ hi]

theorem keyAt_toList {n : Nat} (ks : Vector Word32 n) (i : Fin n) : keyAt ks.toList i = ks.get i := by
  simp [keyAt, Vector.get_eq_getElem]

theorem crypt_eq_networkState (ks : Vector Word32 32) (b : Block) : crypt ks.toList b =
    blockOfWords (revWords (networkState roundT (keyAt ks.toList) (wordsOfBlock b) 32)) := by
  have hks := map_keyAt ks.toList
  rw [Vector.length_toList] at hks
  rw [← foldl_feistelRound_range, hks, crypt, cryptWith]

/-- Settles O25: the sequence is the network's from the words of the block; its last window, reversed, is the
output. -/
theorem networkRecurrence : Obligations.NetworkRecurrence := by
  intro ks b
  refine ⟨networkWord roundT (keyAt ks.toList) (wordsOfBlock b), rfl, rfl, rfl, rfl, fun i => ?step, ?output⟩
  case step => rw [networkWord_add_four, keyAt_toList]
  case output =>
    rw [crypt_eq_networkState, networkState_eq_window]
    rfl

/-! ## TableCore -/

/-- Settles O31: the two cores differ in the transform alone, and `T_tab` is `T`. -/
theorem tableCoreEqualsScalarCore : Obligations.TableCoreEqualsScalarCore := fun rk b =>
  ⟨congrFun (congrFun cryptWith_tabT rk) b, congrFun (congrFun cryptWith_tabT rk.reverse) b⟩

/-! ## VectorCoreA -/

theorem mapLaneBytes_mapLaneBytes (f g : Byte → Byte) (v : Words) :
    mapLaneBytes f (mapLaneBytes g v) = mapLaneBytes (fun b => f (g b)) v := by
  simp only [mapLaneBytes, mapLanes, mapBytes_mapBytes]

/-- The box between its two affine maps is `tau` in every lane (`43_vector_core_a.md` R153). -/
theorem subA_eq (v : Words) : subA v = mapLanes tau v := by
  simp only [subA, mapLaneBytes_mapLaneBytes, subA_byte]
  rfl

theorem vecARound_eq_feistelRound : vecARound = feistelRound roundT := by
  funext v k
  rw [vecARound, subA_eq]
  rfl

theorem vecACrypt_eq_crypt : vecACrypt = crypt := by
  funext ks b
  rw [vecACrypt, vecARound_eq_feistelRound]
  rfl

/-- Settles O32: a round of the vector register is the network's round. -/
theorem vectorCoreAEqualsNetwork : Obligations.VectorCoreAEqualsNetwork := fun ks b =>
  congrFun (congrFun vecACrypt_eq_crypt ks) b

/-! ## VectorCoreB -/

/-- The two field-affine primitives are `tau` in every lane of every sublane (`44_vector_core_b.md` R168). -/
theorem subB_eq (w : Wide) : subB w = mapSubs (mapLanes tau) w := by
  simp only [subB, gfAffineInv, gfAffine, mapSubs, mapLaneBytes_mapLaneBytes, subB_byte]
  rfl

/-- A round of VectorCoreB is the network's round in every sublane. -/
theorem vecBRound_eq_mapSubs (w : Wide) (k : Word32) :
    vecBRound w k = mapSubs (feistelRound roundT · k) w := by
  rw [vecBRound, subB_eq]
  rfl

theorem foldl_vecBRound (ks : List Word32) (w : Wide) :
    ks.foldl vecBRound w = mapSubs (ks.foldl (feistelRound roundT)) w := by
  induction ks generalizing w with
  | nil => rfl
  | cons k ks ih => rw [List.foldl_cons, ih, vecBRound_eq_mapSubs]; rfl

theorem vecBCrypt4_eq_map (ks : List Word32) (b0 b1 b2 b3 : Block) :
    vecBCrypt4 ks b0 b1 b2 b3 = [b0, b1, b2, b3].map (crypt ks) := by
  rw [vecBCrypt4, foldl_vecBRound]
  rfl

/-- Settles O33: nothing crosses a sublane, and each runs the network. -/
theorem vectorCoreBEqualsNetwork : Obligations.VectorCoreBEqualsNetwork := vecBCrypt4_eq_map

/-! ## The known answer -/

/-- Settles O27: every backend is the network, so one evaluation of the network gives all four. -/
theorem knownAnswerOnEveryBackend : Obligations.KnownAnswerOnEveryBackend := by
  unfold Obligations.KnownAnswerOnEveryBackend
  intro k c
  have h : crypt (roundKeys k) k = c := by decide +kernel
  refine ⟨h, ?table, ?vecA, ?vecB⟩
  case table => rw [(tableCoreEqualsScalarCore _ _).1, scalarEncrypt, h]
  case vecA => rw [vecACrypt_eq_crypt, h]
  case vecB => rw [vectorCoreBEqualsNetwork, h]

end Sys2Proof.Proofs

/-! # The dispatcher

The backend of each turn of the dispatch loop depends on the number of blocks left only through whether there
are four of them (`45_dispatch.md` R182); so the bits the turns set add up to one row of the table of R197. -/

namespace Sys2Proof.Proofs

open Sys2Proof.Machine Sys2Proof.Safety

/-! ## The backend a request gets (`45_dispatch.md` R182) -/

section
variable (p : Config.Params) (m : Nat)

/-- VectorCoreA where it is present, else TableCore: what is picked where VectorCoreB is not. -/
def vecAOrTable (p : Config.Params) : Config.Backend := if p.capVA then .vectorCoreA else .tableCore

/-- The best backend for `m` blocks. -/
def bestBackend (p : Config.Params) (m : Nat) : Config.Backend :=
  if p.capVB = true ∧ 4 ≤ m then .vectorCoreB else vecAOrTable p

theorem select_vecA : select p .vecA m = vecAOrTable p := by
  cases h : p.capVA <;> simp [select, orderFrom, List.find?, usable, vecAOrTable, h]

theorem select_auto : select p .auto m = bestBackend p m := by
  by_cases hb : p.capVB = true ∧ 4 ≤ m
  · simp [select, orderFrom, usable, bestBackend, hb]
  · cases ha : p.capVA <;> simp_all [select, orderFrom, List.find?, usable, bestBackend, vecAOrTable]

theorem select_vecB : select p .vecB m = bestBackend p m := select_auto p m

variable {p m} {req : Request}

theorem vecAOrTable_ne_vectorCoreB : vecAOrTable p ≠ .vectorCoreB := by
  unfold vecAOrTable; split <;> decide

theorem bestBackend_eq_vectorCoreB_iff : bestBackend p m = .vectorCoreB ↔ p.capVB = true ∧ 4 ≤ m := by
  unfold bestBackend
  split_ifs with h
  · simp [h]
  · simp [h, vecAOrTable_ne_vectorCoreB]

/-- VectorCoreB is picked for no other requests and no fewer than four blocks. -/
theorem select_eq_vectorCoreB_iff : select p req m = .vectorCoreB ↔
    (req = .auto ∨ req = .vecB) ∧ p.capVB = true ∧ 4 ≤ m := by
  cases req
  case auto => simp [select_auto, bestBackend_eq_vectorCoreB_iff]
  case vecB => simp [select_vecB, bestBackend_eq_vectorCoreB_iff]
  case vecA => simp [select_vecA, vecAOrTable_ne_vectorCoreB]
  case scalar | table => simp [select, orderFrom, List.find?, usable]

/-! ## What a turn adds to the row of the table (`45_dispatch.md` R197) -/

/-- The row where VectorCoreB may be picked: its bit for each full group, another backend's for a remainder. -/
theorem bkusedTable_best (hreq : req = .auto ∨ req = .vecB) (hvb : p.capVB = true) (n : Nat) :
    bkusedTable req n p.capVA p.capVB = (if 4 ≤ n then backendBit .vectorCoreB else 0) |||
      (if n % 4 = 0 then 0 else backendBit (vecAOrTable p)) := by
  have hrow : bkusedTable req n p.capVA p.capVB = bkusedTable .auto n p.capVA true := by
    obtain rfl | rfl := hreq
    · rw [hvb]
    · rw [hvb]
      rfl
  rw [hrow]
  by_cases hfour : 4 ≤ n
  · by_cases hmod : n % 4 = 0
    · simp [bkusedTable, backendBit, hfour, hmod, show n ≠ 0 by omega]
    · cases hva : p.capVA <;> simp [bkusedTable, backendBit, vecAOrTable, hva, hfour, hmod, show n ≠ 0 by omega]
  · by_cases hzero : n = 0
    · simp [bkusedTable, hzero]
    · cases hva : p.capVA <;>
        simp [bkusedTable, backendBit, vecAOrTable, hva, hzero, hfour, show n < 4 by omega, show n % 4 ≠ 0 by omega]

/-- A turn of VectorCoreB. -/
theorem bkusedTable_add_four (h : select p req (m + 4) = .vectorCoreB) :
    bkusedTable req (m + 4) p.capVA p.capVB = backendBit .vectorCoreB ||| bkusedTable req m p.capVA p.capVB := by
  obtain ⟨hreq, hvb, -⟩ := select_eq_vectorCoreB_iff.1 h
  rw [bkusedTable_best hreq hvb, bkusedTable_best hreq hvb, ← BitVec.or_assoc, Nat.add_mod_right,
    if_pos (Nat.le_add_left 4 m)]
  split_ifs <;> rfl

/-- A backend other than VectorCoreB is picked to the end, so its bit is the row's only one. -/
theorem bkusedTable_of_ne_vectorCoreB (h : select p req m ≠ .vectorCoreB) :
    bkusedTable req m p.capVA p.capVB = if m = 0 then 0 else backendBit (select p req m) := by
  refine if_congr Iff.rfl rfl ?_
  cases req
  case scalar | table => rfl
  case vecA => rw [select_vecA, vecAOrTable, apply_ite backendBit]; rfl
  case auto | vecB =>
    simp only [select_auto, select_vecB] at h ⊢
    have hb : ¬ (p.capVB = true ∧ 4 ≤ m) := fun hb => h (if_pos hb)
    have hrow : p.capVB = false ∨ m < 4 := by simpa [imp_iff_not_or] using hb
    simp only [hrow, if_true, bestBackend, hb, if_false, vecAOrTable, apply_ite backendBit]
    rfl

theorem select_eq_of_ne_vectorCoreB {n : Nat} (h : select p req n ≠ .vectorCoreB) (hm : m ≤ n) :
    select p req m = select p req n := by
  cases req
  case scalar | table | vecA => rfl
  case auto | vecB =>
    simp only [select_auto, select_vecB] at h ⊢
    have hn : ¬ (p.capVB = true ∧ 4 ≤ n) := fun hn => h (if_pos hn)
    rw [bestBackend, bestBackend, if_neg hn, if_neg fun hb => hn ⟨hb.1, hb.2.trans hm⟩]

/-- A turn of any other backend. -/
theorem bkusedTable_succ (h : select p req (m + 1) ≠ .vectorCoreB) :
    bkusedTable req (m + 1) p.capVA p.capVB =
      backendBit (select p req (m + 1)) ||| bkusedTable req m p.capVA p.capVB := by
  have hsel := select_eq_of_ne_vectorCoreB h m.le_succ
  rw [bkusedTable_of_ne_vectorCoreB h, bkusedTable_of_ne_vectorCoreB (hsel ▸ h), hsel, if_neg m.succ_ne_zero]
  split_ifs
  · exact BitVec.or_zero.symm
  · exact BitVec.or_self.symm

end

/-! ## The loop (`45_dispatch.md` R183) -/

section
variable {p : Config.Params} {ks : List Word32} {req : Request} {turns : Nat}

theorem dispatchLoop_four {b b1 b2 b3 : Block} {rest : List Block}
    (h : select p req (rest.length + 4) = .vectorCoreB) :
    dispatchLoop p ks req (turns + 1) (b :: b1 :: b2 :: b3 :: rest) =
      ([b, b1, b2, b3].map (crypt ks) ++ (dispatchLoop p ks req turns rest).1,
        backendBit .vectorCoreB ||| (dispatchLoop p ks req turns rest).2) := by
  have hsel : select p req (b :: b1 :: b2 :: b3 :: rest).length = .vectorCoreB := h
  simp only [dispatchLoop, hsel, vecBCrypt4_eq_map]

theorem dispatchLoop_one {b : Block} {bs : List Block} (h : select p req (bs.length + 1) ≠ .vectorCoreB) :
    dispatchLoop p ks req (turns + 1) (b :: bs) =
      (crypt ks b :: (dispatchLoop p ks req turns bs).1,
        backendBit (select p req (bs.length + 1)) ||| (dispatchLoop p ks req turns bs).2) := by
  cases hsel : select p req (bs.length + 1)
  case vectorCoreB => exact absurd hsel h
  case vectorCoreA => simp only [dispatchLoop, List.length_cons, hsel, vecACrypt_eq_crypt]
  case tableCore => simp only [dispatchLoop, List.length_cons, hsel, cryptWith_tabT]
  case scalarCore => simp only [dispatchLoop, List.length_cons, hsel]

/-- With a turn for every block, the loop's output is the network on each block and its bits are the row of the
table. -/
theorem dispatchLoop_eq {bs : List Block} (h : bs.length ≤ turns) :
    dispatchLoop p ks req turns bs = (bs.map (crypt ks), bkusedTable req bs.length p.capVA p.capVB) := by
  induction turns generalizing bs with
  | zero => rw [List.eq_nil_of_length_eq_zero (Nat.le_zero.1 h)]; rfl
  | succ turns ih =>
    match bs with
    | [] => rfl
    | b :: bs =>
      by_cases hsel : select p req (bs.length + 1) = .vectorCoreB
      · have hfour : 4 ≤ bs.length + 1 := (select_eq_vectorCoreB_iff.1 hsel).2.2
        match bs with
        | [] | [_] | [_, _] => simp at hfour
        | b1 :: b2 :: b3 :: rest =>
          simp only [List.length_cons] at h
          rw [dispatchLoop_four hsel, ih (by omega), ← bkusedTable_add_four hsel]
          rfl
      · rw [dispatchLoop_one hsel, ih (Nat.le_of_succ_le_succ h), ← bkusedTable_succ hsel]
        rfl

end

/-- Settles O34: the dispatcher gives its loop a turn for every block. -/
theorem dispatchIsTheNetwork : Obligations.DispatchIsTheNetwork := by
  intro p ks req bs
  rw [dispatch, dispatchLoop_eq le_rfl]
  exact ⟨rfl, rfl⟩

end Sys2Proof.Proofs

/-! # What the body of a command writes

One lemma for each part of the state says what the bodies do to it: the stores are to the output buffers, the
bank is kept or loaded with the key's schedule, and the host's side is never touched. What holds of every
command, and of every step, is read off these. -/

namespace Sys2Proof.Proofs

open Sys2Proof.Machine Sys2Proof.Safety

/-! ## Stores to a list of buffers -/

/-- The second memory is the first after storing, to each buffer in turn, as many bytes as it has. -/
inductive Stores : List Buffer → Memory → Memory → Prop
  | nil (m : Memory) : Stores [] m m
  | cons {b : Buffer} {bs : List Buffer} {m m' : Memory} (bytes : List Byte) (hlen : bytes.length = b.len)
      (h : Stores bs (memWriteBytes m b.addr bytes) m') : Stores (b :: bs) m m'

section
variable {bs : List Buffer} {b : Buffer} {m m' : Memory} {bytes : List Byte}

theorem stores_singleton (hlen : bytes.length = b.len) : Stores [b] m (memWriteBytes m b.addr bytes) :=
  .cons bytes hlen (.nil _)

theorem Stores.wf (h : Stores bs m m') (hwf : Memory.wf m = true) : Memory.wf m' = true := by
  induction h with
  | nil => exact hwf
  | cons bytes hlen _ ih => exact ih (memWriteBytes_wf hwf _ _)

theorem Stores.memRead_outside (h : Stores bs m m') {a : Nat} (ha : ∀ b ∈ bs, ¬ inBuffer b a) :
    memRead m' a = memRead m a := by
  induction h with
  | nil => rfl
  | cons bytes hlen _ ih =>
    obtain ⟨hb, hbs⟩ := List.forall_mem_cons.1 ha
    rw [ih hbs, memRead_memWriteBytes_outside _ bytes (by omega)]

/-- What is listed afterwards was listed before or lies in one of the buffers. -/
theorem Stores.mem_cases (h : Stores bs m m') {c : Host.Cell} (hc : c ∈ m') :
    c ∈ m ∨ ∃ b ∈ bs, inBuffer b c.1 := by
  induction h with
  | nil => exact .inl hc
  | cons bytes hlen _ ih =>
    obtain hm | ⟨b, hb, hin⟩ := ih hc
    · obtain hin | hm := memWriteBytes_mem hm
      · exact .inr ⟨_, List.mem_cons_self, by rwa [inBuffer, ← hlen]⟩
      · exact .inl hm
    · exact .inr ⟨b, List.mem_cons_of_mem _ hb, hin⟩

end

section
variable {i : Instr} {s t : State}

/-! ## The body of a BLKS command (`45_dispatch.md` R199) -/

/-- The network on each input block, and the row of the table of R197. -/
theorem blksOutput_eq (req : Request) (dir : Direction) (s : State) : blksOutput req dir s =
    ((blksInput s).map (crypt (keysFor dir s.rk.toList)),
      bkusedTable req (blksCount s) s.params.capVA s.params.capVB) := by
  have hlen : (blksInput s).length = blksCount s := blocksOfBytes_length _ _
  rw [blksOutput, dispatch, dispatchLoop_eq le_rfl, hlen]

theorem blksBody_eq (req : Request) (dir : Direction) (s : State) : blksBody req dir s =
    endCommand .ok (bkusedTable req (blksCount s) s.params.capVA s.params.capVB)
      (writeBuffer (blksDst s) (bytesOfBlocks ((blksInput s).map (crypt (keysFor dir s.rk.toList)))) s) := by
  rw [blksBody, blksOutput_eq]


theorem blksBody_bytes_length (dir : Direction) (s : State) :
    (bytesOfBlocks ((blksInput s).map (crypt (keysFor dir s.rk.toList)))).length = 16 * xval s 2 := by
  rw [bytesOfBlocks_length, List.length_map, blksInput, blocksOfBytes_length, blksCount]

/-! ## What a body can do -/

/-- A command that does not write the bank stores to one buffer and ends `Ok`. -/
theorem commandBody_of_not_writesBank (h : writesBank i = false) : ∃ dst bytes u,
    outputBuffers i s = [dst] ∧ bytes.length = dst.len ∧
      commandBody i s = endCommand .ok u (writeBuffer dst bytes s) := by
  cases i
  case kexp | gcmenc | gcmdec => cases h
  case gfmul | ghash | inc32 | blkSE | blkSD | blkTE | blkTD =>
    exact ⟨_, _, _, rfl, bytesOfBlock_length _, rfl⟩
  all_goals exact ⟨_, _, _, rfl, blksBody_bytes_length _ s, blksBody_eq _ _ s⟩

theorem gcmencBody_stores (h : GcmLengthsOk s) : Stores (outputBuffers .gcmenc s) s.mem (gcmencBody s).mem := by
  rw [gcmencBody_mem]
  exact .cons _ (gcmStreamed_length s) (stores_singleton (b := gcmTag s) (gcmTagOver_length h _))

theorem gcmStored_stores {bytes : List Byte} (h : bytes.length = xval s 7) :
    Stores (outputBuffers .gcmdec s) s.mem (gcmStored bytes s).mem :=
  stores_singleton (b := gcmOutput s) h

/-- A command that writes the bank loads the schedule of the key at `X0`, and stores to its output buffers. -/
theorem commandBody_of_writesBank (h : writesBank i = true) (hc : commandCheck i s = .ok) : ∃ m e,
    Stores (outputBuffers i s) s.mem m ∧ commandBody i s =
      endCommand e 0 (loadBank (keySchedule (blockAt s (xval s 0))) { s with mem := m }) := by
  cases i
  case kexp => exact ⟨s.mem, .ok, .nil _, rfl⟩
  case gcmenc => exact ⟨_, .ok, gcmencBody_stores ((gcmCheck_ok_iff s).1 hc), rfl⟩
  case gcmdec =>
    obtain hbody | hbody := gcmdecBody_cases (s := s)
    · exact ⟨_, .ok, gcmStored_stores (gcmCtr_eq_gcmStreamed s ▸ gcmStreamed_length s), hbody⟩
    · exact ⟨_, .authenticationFailure, gcmStored_stores List.length_replicate, hbody⟩
  all_goals cases h

/-- The output buffers are among those whose accessibility phase 3 checks. -/
theorem outputBuffers_subset_namedBuffers (i : Instr) (s : State) : outputBuffers i s ⊆ namedBuffers i s := by
  cases i <;> simp [outputBuffers, namedBuffers, gcmNamed]

/-! ## What a command can do -/

/-- A command that answers a next state raised a failed check, or stored to its output buffers; it loaded the
schedule of the key at `X0` if it is one of the three that write the bank. -/
theorem exec_next_cases (h : exec i s = .next t) :
    (commandCheck i s ≠ .ok ∧ t = raise (commandCheck i s) s) ∨
    ∃ m e u, (∀ b ∈ namedBuffers i s, Reachable s.params b) ∧ Stores (outputBuffers i s) s.mem m ∧
      (writesBank i = false ∧ t = endCommand e u { s with mem := m } ∨
        writesBank i = true ∧
          t = endCommand e u (loadBank (keySchedule (blockAt s (xval s 0))) { s with mem := m })) := by
  obtain hraised | ⟨hc, hreach, rfl⟩ := exec_next_iff.1 h
  · exact .inl hraised
  right
  cases hw : writesBank i
  · obtain ⟨dst, bytes, u, hout, hlen, hbody⟩ := commandBody_of_not_writesBank (s := s) hw
    exact ⟨_, .ok, u, hreach, hout ▸ stores_singleton hlen, .inl ⟨rfl, hbody⟩⟩
  · obtain ⟨m, e, hstores, hbody⟩ := commandBody_of_writesBank hw hc
    exact ⟨m, e, 0, hreach, hstores, .inr ⟨rfl, hbody⟩⟩

end

/-- Settles O15: a raised check stores nothing; a body stores to the output buffers, and the bank is loaded only
by the commands that write it. -/
theorem commandFrame : Obligations.CommandFrame := by
  intro i s t h
  obtain ⟨-, rfl⟩ | ⟨m, e, u, -, hstores, ⟨-, rfl⟩ | ⟨hw, rfl⟩⟩ := exec_next_cases h
  · exact ⟨⟨rfl, rfl, rfl, rfl⟩, fun _ => ⟨rfl, rfl⟩, fun _ _ => rfl⟩
  · exact ⟨⟨rfl, rfl, rfl, rfl⟩, fun _ => ⟨rfl, rfl⟩, fun _ => hstores.memRead_outside⟩
  · exact ⟨⟨rfl, rfl, rfl, rfl⟩, fun hn => absurd (hn.symm.trans hw) Bool.false_ne_true,
      fun _ => hstores.memRead_outside⟩

/-- Settles O19: the cases of what a command can do. -/
theorem bankUnchangedOrSchedule : Obligations.BankUnchangedOrSchedule := by
  intro i s t h
  obtain ⟨-, rfl⟩ | ⟨m, e, u, -, -, ⟨-, rfl⟩ | ⟨hw, rfl⟩⟩ := exec_next_cases h
  · exact .inl ⟨rfl, rfl⟩
  · exact .inl ⟨rfl, rfl⟩
  · exact .inr ⟨hw, rfl, rfl⟩

end Sys2Proof.Proofs

/-! # The phases of a command

The checks of phase 2 pass exactly where the rules say so, and the buffers of phase 3 are those the table names
(`30_encoding.md` R81); so the outcome of a command is decided by these two. -/

namespace Sys2Proof.Proofs

open Sys2Proof.Machine Sys2Proof.Safety

section
variable {i : Instr} {s t : State}

theorem commandCheck_ok_iff : commandCheck i s = .ok ↔ ChecksPass i s := by
  cases i
  case kexp => exact kexpCheck_ok_iff s
  case gfmul | ghash | inc32 => exact iff_true_intro rfl
  case gcmenc | gcmdec => exact gcmCheck_ok_iff s
  all_goals exact keyedCheck_ok_iff s

theorem exec_fault_iff {f : Fault} : exec i s = .fault f ↔
    ChecksPass i s ∧ ¬ (∀ b ∈ namedBuffers i s, Reachable s.params b) ∧ f = .bufferFault := by
  rw [exec_eq_runCommand_of_instr, runCommand_fault_iff, commandCheck_ok_iff]

theorem exec_not_refused {r : Refusal} : exec i s ≠ .refused r := by
  rw [exec_eq_runCommand_of_instr]
  exact runCommand_not_refused

theorem exec_of_checks_passed (hc : ChecksPass i s) (hb : ∀ b ∈ namedBuffers i s, Reachable s.params b) :
    exec i s = .next (commandBody i s) :=
  exec_next_iff.2 (.inr ⟨commandCheck_ok_iff.2 hc, hb, rfl⟩)

theorem commandBody_err_ok_or_authenticationFailure : (commandBody i s).err = 0 ∨ (commandBody i s).err = 4 :=
  commandBody_err_cases.imp id fun h => congrArg State.err h.2

/-! ## The codes (`60_exceptions.md` R269) -/

theorem errorCode_commandCheck_mem : errorCode (commandCheck i s) ∈ errorCodes i := by
  cases i
  case kexp => exact List.mem_map_of_mem kexpCheck_mem
  case gfmul | ghash | inc32 => exact List.mem_cons_self
  case gcmenc => exact List.mem_map_of_mem gcmCheck_mem
  case gcmdec => exact List.mem_append_left [4] (List.mem_map_of_mem gcmCheck_mem)
  all_goals exact List.mem_map_of_mem keyedCheck_mem

theorem mem_of_mem_errorCodes {c : BitVec 4} (h : c ∈ errorCodes i) (h0 : c ≠ 0) (h4 : c ≠ 4) :
    c ∈ ([1, 2, 3, 5] : List (BitVec 4)) := by
  revert c
  cases i <;> decide

/-- A check fails with code 1, 2, 3 or 5. -/
theorem errorCode_of_check_failed (h : commandCheck i s ≠ .ok) :
    errorCode (commandCheck i s) ∈ ([1, 2, 3, 5] : List (BitVec 4)) := by
  have hok : errorCode (commandCheck i s) ≠ 0 := fun h0 => h (errorCode_injective (a₂ := .ok) h0)
  have hauth : errorCode (commandCheck i s) ≠ 4 := fun h4 =>
    commandCheck_ne_authenticationFailure (errorCode_injective (a₂ := .authenticationFailure) h4)
  exact mem_of_mem_errorCodes errorCode_commandCheck_mem hok hauth

end

/-- Settles O13: a failed check's code is in the row, and a body ends with 0 or, for GCMDEC, with 4. -/
theorem errorCodesByCommand : Obligations.ErrorCodesByCommand := by
  intro i s t h
  obtain ⟨-, rfl⟩ | ⟨-, -, rfl⟩ := exec_next_iff.1 h
  · exact errorCode_commandCheck_mem
  · obtain h0 | ⟨rfl, hbody⟩ := commandBody_err_cases (i := i) (s := s)
    · rw [h0]
      cases i <;> exact List.mem_cons_self
    · rw [hbody]
      exact List.mem_append_right [0, 1, 2, 3] List.mem_cons_self

/-- Settles O12: the three outcomes of the command frame. -/
theorem commandsAnswerByPhase : Obligations.CommandsAnswerByPhase := by
  refine fun i s => ⟨fun hc hb => ?completes, fun hc hb => ?faults, fun hc => ?raises⟩
  case completes => exact ⟨_, exec_of_checks_passed hc hb, commandBody_err_ok_or_authenticationFailure⟩
  case faults => exact exec_fault_iff.2 ⟨hc, hb, rfl⟩
  case raises =>
    have hne : commandCheck i s ≠ .ok := fun h => hc (commandCheck_ok_iff.1 h)
    exact ⟨_, errorCode_of_check_failed hne, exec_of_check_failed hne⟩

/-! ## The two stops of a step -/

section
variable {s : State} {e : HostEvent} {off : Nat}

/-- CMD is the register at offset 0 and at no other (`30_encoding.md` R71). -/
theorem windowReg_eq_cmd_iff : windowReg off = some .cmd ↔ off = 0 := by
  refine ⟨fun h => ?_, fun h => h ▸ rfl⟩
  unfold windowReg slotReg at h
  split_ifs at h
  · omega
  all_goals cases h

theorem windowReg_eq_none_iff : windowReg off = none ↔ ¬ (off % 8 = 0 ∧ off < 0x200) := by
  unfold windowReg
  split_ifs with h
  · simp [h]
  · simp only [h, not_false_eq_true]

variable {v : Word64} {f : Fault} {r : Refusal} {reg : WindowReg}

theorem commandWrite_fault_iff : commandWrite v s = .fault f ↔ ∃ i, decode v = .ok i ∧ exec i s = .fault f := by
  unfold commandWrite
  split
  · simp_all
  · simp_all

theorem commandWrite_not_refused : commandWrite v s ≠ .refused r := by
  unfold commandWrite
  split
  · exact exec_not_refused
  · nofun

theorem windowWrite_fault_iff : windowWrite v s reg = .fault f ↔ reg = .cmd ∧ commandWrite v s = .fault f := by
  cases reg <;> simp [windowWrite]

theorem windowWrite_not_refused : windowWrite v s reg ≠ .refused r := by
  cases reg
  case cmd => exact commandWrite_not_refused
  all_goals nofun

theorem transactionWr_fault_iff : transactionWr off v s = .fault f ↔
    off = 0 ∧ ∃ i, decode v = .ok i ∧ exec i s = .fault f := by
  rw [← commandWrite_fault_iff, ← windowReg_eq_cmd_iff]
  cases hreg : windowReg off
  · simp [transactionWr_refused hreg]
  · simp [transactionWr_of_windowReg hreg, windowWrite_fault_iff]

theorem transactionWr_refused_iff : transactionWr off v s = .refused r ↔
    r = .notATransaction off ∧ ¬ (off % 8 = 0 ∧ off < 0x200) := by
  rw [← windowReg_eq_none_iff]
  cases hreg : windowReg off
  · simp [transactionWr_refused hreg, eq_comm]
  · simp [transactionWr_of_windowReg hreg, windowWrite_not_refused]

theorem transactionRd_refused_iff : transactionRd off s = .refused r ↔
    r = .notATransaction off ∧ ¬ (off % 8 = 0 ∧ off < 0x200) := by
  rw [← windowReg_eq_none_iff]
  cases hreg : windowReg off
  · simp [transactionRd_refused hreg, eq_comm]
  · simp [transactionRd_of_windowReg hreg]

theorem transactionRd_not_fault : transactionRd off s ≠ .fault f := by
  cases hreg : windowReg off
  · simp [transactionRd_refused hreg]
  · simp [transactionRd_of_windowReg hreg]

/-- Only a command that the host writes to CMD can fault. -/
theorem hostEvent_fault_iff : hostEvent e s = .fault f ↔
    ∃ w i, e = .wr 0x000 w ∧ decode w = .ok i ∧ exec i s = .fault f := by
  cases e with
  | wr off v => simp [hostEvent, transactionWr_fault_iff, and_assoc]
  | rd off => simp [hostEvent, transactionRd_not_fault]
  | store a b => simp [hostEvent]
  | reset => simp [hostEvent]

/-- Only a transaction off the window is refused. -/
theorem hostEvent_refused_iff : hostEvent e s = .refused r ↔
    ∃ off, r = .notATransaction off ∧ (e = .rd off ∨ ∃ v, e = .wr off v) ∧ ¬ (off % 8 = 0 ∧ off < 0x200) := by
  cases e with
  | wr off v => simp [hostEvent, transactionWr_refused_iff]
  | rd off => simp [hostEvent, transactionRd_refused_iff]
  | store a b => simp [hostEvent]
  | reset => simp [hostEvent]

theorem namedBuffers_withPending (i : Instr) (rest : List HostEvent) :
    namedBuffers i { s with pending := rest } = namedBuffers i s := by
  cases i <;> rfl

theorem exec_withPending_fault_iff {i : Instr} {rest : List HostEvent} :
    exec i { s with pending := rest } = .fault f ↔ ChecksPass i { s with pending := rest } ∧
      ¬ (∀ b ∈ namedBuffers i s, Reachable s.params b) ∧ f = .bufferFault := by
  rw [exec_fault_iff, namedBuffers_withPending]

end

/-- Settles O11: an idle step goes on, and the next event stops only as a fault of the command written to CMD or
as a refusal of the offset. -/
theorem onlyBufferBreachStops : Obligations.OnlyBufferBreachStops := by
  intro s
  cases hp : s.pending with
  | nil =>
    have hstep : step s = .next s := by unfold step nextEvent; rw [hp]
    simp [hstep]
  | cons e rest =>
    rw [step_eq_hostEvent hp]
    refine ⟨fun f => ?fault, fun r => ?refused⟩
    case fault =>
      rw [hostEvent_fault_iff]
      constructor
      · rintro ⟨w, i, rfl, hd, hfault⟩
        obtain ⟨hc, hb, hf⟩ := exec_withPending_fault_iff.1 hfault
        exact ⟨hf, w, rest, i, rfl, hd, hc, hb⟩
      · rintro ⟨hf, w, _, i, ⟨⟩, hd, hc, hb⟩
        exact ⟨w, i, rfl, hd, exec_withPending_fault_iff.2 ⟨hc, hb, hf⟩⟩
    case refused =>
      rw [hostEvent_refused_iff]
      constructor
      · rintro ⟨off, hr, he, hoff⟩
        exact ⟨off, rest, hr, he.imp (congrArg (· :: rest)) fun ⟨v, hv⟩ => ⟨v, congrArg (· :: rest) hv⟩, hoff⟩
      · rintro ⟨off, _, hr, hq, hoff⟩
        exact ⟨off, hr, hq.imp (fun h => (List.cons.inj h).1) fun ⟨v, hv⟩ => ⟨v, (List.cons.inj hv).1⟩, hoff⟩

/-! ## Block counts of `2^60` and more -/

/-- A buffer of `2^64` bytes or more lies nowhere (`49_arithmetic_and_absent_families.md` R223). -/
theorem not_reachable_of_le {p : Config.Params} {a n : Nat} (h : 2 ^ 64 ≤ n) : ¬ Reachable p ⟨a, n⟩ :=
  fun hr => absurd hr.1 (Nat.not_lt.2 h)

section
variable {s : State} {req : Request} {dir : Direction}

theorem exec_blksInstr : exec (blksInstr req dir) s = blksCommand req dir s := by
  cases req <;> cases dir <;> rfl

theorem blksCommand_fault (hv : s.rkv = true)
    (hb : ¬ (Reachable s.params (blksSrc s) ∧ Reachable s.params (blksDst s))) :
    blksCommand req dir s = .fault .bufferFault := by
  refine runCommand_fault_iff.2 ⟨(keyedCheck_ok_iff s).2 hv, fun h => hb ?_, rfl⟩
  exact ⟨h _ List.mem_cons_self, h _ (.tail _ List.mem_cons_self)⟩

end

/-- Settles O56: `16 * X2` is not reduced, so the input alone is too long. -/
theorem wideBlockCountFaults : Obligations.WideBlockCountFaults := by
  intro s req dir hv hcount
  rw [exec_blksInstr]
  have hlen : 2 ^ 64 ≤ 16 * xval s 2 := by omega
  exact blksCommand_fault hv fun h => not_reachable_of_le hlen h.1

end Sys2Proof.Proofs

/-! # The invariant of the state

`Inv` speaks of memory, of the bank, of the flags and of the parameters. A command can change memory only by
stores to accessible buffers and the bank only by loading a key schedule; the other events of the host change
nothing `Inv` speaks of, but for the host's store and for a reset. -/

namespace Sys2Proof.Proofs

open Sys2Proof.Machine Sys2Proof.Safety

/-! ## The flags a command leaves (`10_state.md` R27) -/

section
variable {i : Instr} {s t : State}

theorem errorCode_le (k : ErrorKind) : (errorCode k).toNat ≤ 6 := by
  cases k <;> decide

theorem exec_err_le (h : exec i s = .next t) : t.err.toNat ≤ 6 := by
  obtain ⟨-, rfl⟩ | ⟨m, e, u, -, -, ⟨-, rfl⟩ | ⟨-, rfl⟩⟩ := exec_next_cases h
  all_goals exact errorCode_le _

/-- `BKUSED` is set only by a block command that ended `Ok`, which had a key. -/
theorem exec_bkused (h : exec i s = .next t) (hu : t.bkused ≠ 0) : t.err = 0 ∧ t.rkv = true := by
  have hk : needsKey i = true := by
    by_contra hk
    obtain ⟨-, rfl⟩ | ⟨-, -, rfl⟩ := exec_next_iff.1 h
    · exact hu rfl
    · exact hu (commandBody_bkused (Bool.eq_false_of_not_eq_true hk))
  obtain ⟨-, rfl⟩ | ⟨hv, -, rfl⟩ := (exec_next_iff_of_needsKey hk).1 h
  · exact absurd rfl hu
  · exact ⟨commandBody_err_of_needsKey hk, commandBody_rkv_of_loaded hv⟩

/-- The values of the table of `45_dispatch.md` R197, and the bits of the two cores of BLK. -/
def bkusedValues : List (BitVec 4) := [0b0000, 0b0001, 0b0010, 0b0100, 0b1000, 0b1010, 0b1100]

theorem bkusedTable_mem (req : Request) (n : Nat) (va vb : Bool) : bkusedTable req n va vb ∈ bkusedValues := by
  unfold bkusedTable
  cases req <;> dsimp only <;> split_ifs <;> decide

theorem backendBit_mem (unit : Config.Backend) : backendBit unit ∈ bkusedValues := by
  cases unit <;> decide

theorem blkBody_bkused_mem {core : List Word32 → Block → Block} {unit : Config.Backend} :
    (blkBody core unit s).bkused ∈ bkusedValues := backendBit_mem unit

theorem blksBody_bkused_mem {req : Request} {dir : Direction} : (blksBody req dir s).bkused ∈ bkusedValues := by
  rw [blksBody_eq]
  exact bkusedTable_mem _ _ _ _

theorem commandBody_bkused_mem : (commandBody i s).bkused ∈ bkusedValues := by
  cases hk : needsKey i
  · rw [commandBody_bkused hk]
    exact List.mem_cons_self
  cases i
  case kexp | gfmul | ghash | inc32 | gcmenc | gcmdec => cases hk
  case blkSE | blkSD | blkTE | blkTD => exact blkBody_bkused_mem
  all_goals exact blksBody_bkused_mem

theorem exec_bkused_mem (h : exec i s = .next t) : t.bkused ∈ bkusedValues := by
  obtain ⟨-, rfl⟩ | ⟨-, -, rfl⟩ := exec_next_iff.1 h
  · exact List.mem_cons_self
  · exact commandBody_bkused_mem

/-! ## Memory -/

theorem stores_keeps_space {bs : List Buffer} {p : Config.Params} {m m' : Memory} (h : Stores bs m m')
    (hreach : ∀ b ∈ bs, Reachable p b) (hspace : ∀ c ∈ m, c.1 < 2 ^ 64) : ∀ c ∈ m', c.1 < 2 ^ 64 := by
  intro c hc
  obtain hm | ⟨b, hb, hin⟩ := h.mem_cases hc
  · exact hspace c hm
  · have := ((hreach b hb).2 (c.1 - b.addr) (by omega)).1
    omega

/-! ## Every event keeps the invariant -/

/-- A command stores to accessible buffers and loads only a key schedule. -/
theorem exec_keeps_inv (hinv : Inv s) (h : exec i s = .next t) : Inv t := by
  have herr := exec_err_le h
  have hused := exec_bkused h
  have hvalue := exec_bkused_mem h
  obtain ⟨-, rfl⟩ | ⟨m, e, u, hreach, hstores, hbank⟩ := exec_next_cases h
  · exact ⟨hinv.memory, hinv.space, hinv.params, herr, hinv.loaded, hinv.empty, hused, hvalue⟩
  have hwf := hstores.wf hinv.memory
  have hspace := stores_keeps_space hstores
    (fun b hb => hreach b (outputBuffers_subset_namedBuffers i s hb)) hinv.space
  obtain ⟨-, rfl⟩ | ⟨-, rfl⟩ := hbank
  · exact ⟨hwf, hspace, hinv.params, herr, hinv.loaded, hinv.empty, hused, hvalue⟩
  · exact ⟨hwf, hspace, hinv.params, herr, fun _ => ⟨_, rfl⟩, nofun, hused, hvalue⟩

/-- `Inv` says nothing of the argument registers and the host's side. -/
theorem inv_withHostSide (hinv : Inv s) (x : Vector Word64 16) (pending : List HostEvent) (returned : List Word64) :
    Inv { s with x := x, pending := pending, returned := returned } :=
  ⟨hinv.memory, hinv.space, hinv.params, hinv.err, hinv.loaded, hinv.empty, hinv.used, hinv.usedValue⟩

theorem hostStore_keeps_inv (hinv : Inv s) (a : Word64) (b : Byte) : Inv (hostStore a b s) := by
  refine ⟨memWrite_wf hinv.memory _ _, fun c hc => ?_, hinv.params, hinv.err, hinv.loaded, hinv.empty, hinv.used,
    hinv.usedValue⟩
  obtain ha | hm := memWrite_mem hc
  · exact ha ▸ a.isLt
  · exact hinv.space c hm

theorem raise_keeps_inv (hinv : Inv s) (k : ErrorKind) : Inv (raise k s) :=
  ⟨hinv.memory, hinv.space, hinv.params, errorCode_le k, hinv.loaded, hinv.empty, fun h => absurd rfl h,
    List.mem_cons_self⟩

theorem resetEvent_meets_inv (hinv : Inv s) : Inv (resetEvent s) :=
  ⟨hinv.memory, hinv.space, hinv.params, Nat.zero_le 6, nofun, fun _ => rfl, fun h => absurd rfl h,
    List.mem_cons_self⟩

theorem hostEvent_keeps_inv {e : HostEvent} (hinv : Inv s) (h : hostEvent e s = .next t) : Inv t := by
  obtain ⟨_, w, -, -, hcmd⟩ | ⟨_, v, j, -, -, rfl⟩ | ⟨_, v, -, rfl⟩ | ⟨_, r, -, -, rfl⟩ | ⟨a, b, -, rfl⟩ |
    ⟨-, rfl⟩ := hostEvent_next_cases h
  · obtain ⟨i, -, hexec⟩ | ⟨_, -, rfl⟩ := commandWrite_next_cases hcmd
    · exact exec_keeps_inv hinv hexec
    · exact raise_keeps_inv hinv _
  · exact inv_withHostSide hinv _ _ _
  · exact hinv
  · exact inv_withHostSide hinv _ _ _
  · exact hostStore_keeps_inv hinv a b
  · exact resetEvent_meets_inv hinv

end

/-- Settles O9: an idle step changes nothing, and each event keeps the invariant. -/
theorem stepKeepsInvariant : Obligations.StepKeepsInvariant := by
  intro s t hinv h
  obtain ⟨-, rfl⟩ | ⟨e, rest, -, hevent⟩ := step_next_cases h
  · exact hinv
  · exact hostEvent_keeps_inv (inv_withHostSide hinv s.x rest s.returned) hevent

/-- Settles O8: memory is empty, `RAM` is the whole address space, and there is no key. -/
theorem resetMeetsInvariant : Obligations.ResetMeetsInvariant :=
  ⟨reset_mem_wf, nofun, by decide, Nat.zero_le 6, nofun, fun _ => rfl, fun h => absurd rfl h, List.mem_cons_self⟩

/-! ## The parameters -/

theorem hostEvent_keeps_params {e : HostEvent} {s t : State} (h : hostEvent e s = .next t) :
    t.params = s.params := by
  obtain ⟨_, w, -, -, hcmd⟩ | ⟨_, v, j, -, -, rfl⟩ | ⟨_, v, -, rfl⟩ | ⟨_, r, -, -, rfl⟩ | ⟨a, b, -, rfl⟩ |
    ⟨-, rfl⟩ := hostEvent_next_cases h
  · obtain ⟨i, -, hexec⟩ | ⟨_, -, rfl⟩ := commandWrite_next_cases hcmd
    · obtain ⟨⟨-, hparams, -⟩, -⟩ := commandFrame i s t hexec
      exact hparams
    · rfl
  all_goals rfl

/-- Settles O10: no event writes the parameters. -/
theorem stepKeepsParameters : Obligations.StepKeepsParameters := by
  intro s t h
  obtain ⟨-, rfl⟩ | ⟨e, rest, -, hevent⟩ := step_next_cases h
  · rfl
  · exact hostEvent_keeps_params (s := { s with pending := rest }) hevent

/-! # Single steps: a command word, no event, a reset -/

/-- Settles O2: each word is the encoder's, which the decoder inverts. -/
theorem tableWordsDecode : Obligations.TableWordsDecode :=
  ⟨decode_encode .kexp, decode_encode .blkSE, decode_encode .blkTD, decode_encode .blksAutoE,
    decode_encode .blksSD, decode_encode .blksTE, decode_encode .blksVaD, decode_encode .blksVbE,
    decode_encode .gfmul, decode_encode .ghash, decode_encode .inc32, decode_encode .gcmenc, decode_encode .gcmdec⟩

theorem commandWrite_of_decode {w : Word64} {i : Instr} {s : State} (h : decode w = .ok i) :
    commandWrite w s = exec i s := by
  unfold commandWrite
  rw [h]

theorem step_of_pending_command {s : State} {w : Word64} {rest : List HostEvent} {i : Instr}
    (hp : s.pending = .wr 0x000 w :: rest) (h : decode w = .ok i) : step s = exec i { s with pending := rest } :=
  calc step s = commandWrite w { s with pending := rest } := step_eq_hostEvent hp
    _ = _ := commandWrite_of_decode h

/-- Settles O4: a write to CMD runs the decoded command; `withFetchWord` only puts that write on the queue. -/
theorem stepRunsDecodedCommand : Obligations.StepRunsDecodedCommand := by
  refine ⟨fun s w rest i => step_of_pending_command, fun s i => ?fetched⟩
  have hword : BitVec.ofNat 64 ((encode i).toNat % 2 ^ 64) = encode i := by
    rw [Nat.mod_eq_of_lt (encode i).isLt, BitVec.ofNat_toNat, BitVec.setWidth_eq]
  exact step_of_pending_command (congrArg (HostEvent.wr 0x000 · :: s.pending) hword) (decode_encode i)

/-- Settles O5: the step takes the first event of the queue, and there is none. -/
theorem idleStepKeepsState : Obligations.IdleStepKeepsState := by
  intro s h
  unfold step nextEvent
  rw [h]

/-- Settles O7: the reset event clears every register, and the window reads a state by its fields. -/
theorem resetClearsRegisters : Obligations.ResetClearsRegisters := by
  have hx : ∀ i, (Vector.replicate 16 (0 : Word64)).get i = 0 := fun i => Vector.getElem_replicate _
  have hrk : ∀ i, (Vector.replicate 32 (0 : Word32)).get i = 0 := fun i => Vector.getElem_replicate _
  refine ⟨fun s rest hp => ?event, hx, hrk, rfl, rfl, rfl⟩
  have hstatus : windowRead (resetEvent { s with pending := rest }) .status = 0 := statusWord_eq_ofNat
  exact ⟨resetEvent { s with pending := rest }, step_eq_hostEvent hp, hx, hrk, rfl, rfl, rfl, rfl, rfl, rfl, rfl,
    readsAs_of_windowReg (r := .cmd) rfl, hstatus ▸ readsAs_of_windowReg rfl,
    fun i => readsAs_of_windowReg (windowReg_rkr i), capWord_eq_ofNat ▸ readsAs_of_windowReg (r := .cap) rfl⟩

end Sys2Proof.Proofs

/-! # What a command does not depend on

Two states in which a command's checks, its buffers and `RAM` are the same take the same way through the phases
of R81; what is left to compare is what the body makes of each. -/

namespace Sys2Proof.Proofs

open Sys2Proof.Machine Sys2Proof.Safety

section
variable {i : Instr} {s s' t : State}

theorem reachable_congr {p p' : Config.Params} (h : p'.ram = p.ram) (b : Buffer) :
    Reachable p' b ↔ Reachable p b := by
  unfold Reachable
  rw [h]

/-- What decides a command's way through its phases is the same in both states. -/
structure SamePhases (i : Instr) (s s' : State) : Prop where
  check : commandCheck i s' = commandCheck i s
  buffers : namedBuffers i s' = namedBuffers i s
  ram : s'.params.ram = s.params.ram

theorem SamePhases.reachable (h : SamePhases i s s') :
    (∀ b ∈ namedBuffers i s', Reachable s'.params b) ↔ ∀ b ∈ namedBuffers i s, Reachable s.params b := by
  simp only [h.buffers, reachable_congr h.ram]

theorem SamePhases.exec_next (h : SamePhases i s s') (hexec : exec i s = .next t) :
    (commandCheck i s ≠ .ok ∧ t = raise (commandCheck i s) s ∧ exec i s' = .next (raise (commandCheck i s) s')) ∨
    (t = commandBody i s ∧ exec i s' = .next (commandBody i s')) := by
  obtain ⟨hc, rfl⟩ | ⟨hc, hb, rfl⟩ := exec_next_iff.1 hexec
  · exact .inl ⟨hc, rfl, h.check ▸ exec_of_check_failed (h.check ▸ hc)⟩
  · exact .inr ⟨rfl, exec_next_iff.2 (.inr ⟨h.check ▸ hc, h.reachable.2 hb, rfl⟩)⟩

theorem SamePhases.exec_fault (h : SamePhases i s s') {f : Fault} (hexec : exec i s = .fault f) :
    exec i s' = .fault f := by
  rw [exec_eq_runCommand_of_instr, runCommand_fault_iff] at hexec ⊢
  rwa [h.check, h.reachable]

end

/-! ## The capability flags (`45_dispatch.md` section 1) -/

section
variable {i : Instr} (va vb : Bool) (s : State)

/-- The state with other vector units. -/
def withCaps (s : State) : State := { s with params := { s.params with capVA := va, capVB := vb } }

theorem samePhases_withCaps : SamePhases i s (withCaps va vb s) where
  check := by cases i <;> rfl
  buffers := by cases i <;> rfl
  ram := rfl

theorem endCommand_withCaps (e : ErrorKind) (u : BitVec 4) :
    endCommand e u (withCaps va vb s) = withCaps va vb (endCommand e u s) := rfl

theorem endCommand_withCaps_used {e : ErrorKind} {u u' : BitVec 4} :
    endCommand e u' (withCaps va vb s) = { withCaps va vb (endCommand e u s) with bkused := u' } := rfl

theorem writeBuffer_withCaps (b : Buffer) (bs : List Byte) :
    writeBuffer b bs (withCaps va vb s) = withCaps va vb (writeBuffer b bs s) := rfl

theorem loadBank_withCaps (r : Vector Word32 32) :
    loadBank r (withCaps va vb s) = withCaps va vb (loadBank r s) := rfl

theorem gcmdecBody_withCaps : gcmdecBody (withCaps va vb s) = withCaps va vb (gcmdecBody s) := by
  rw [gcmdecBody, gcmdecBody, apply_ite (withCaps va vb)]
  simp only [loadBank_withCaps, writeBuffer_withCaps, endCommand_withCaps]
  rfl

theorem blkBody_withCaps (core : List Word32 → Block → Block) (unit : Config.Backend) :
    blkBody core unit (withCaps va vb s) =
      { withCaps va vb (blkBody core unit s) with bkused := backendBit unit } := by
  simp only [blkBody, writeBuffer_withCaps]
  exact endCommand_withCaps_used va vb _

/-- The dispatcher's output is the network whatever the units. -/
theorem blksBody_withCaps (req : Request) (dir : Direction) : blksBody req dir (withCaps va vb s) =
    { withCaps va vb (blksBody req dir s) with bkused := bkusedTable req (blksCount s) va vb } := by
  simp only [blksBody_eq, writeBuffer_withCaps]
  exact endCommand_withCaps_used va vb _

/-- A command that needs no key reads no capability flag. -/
theorem commandBody_withCaps_of_keyless (h : needsKey i = false) :
    commandBody i (withCaps va vb s) = withCaps va vb (commandBody i s) := by
  cases i
  case kexp => rfl
  case gfmul | ghash | inc32 | gcmenc =>
    simp only [commandBody, gfmulBody, ghashBody, inc32Body, gcmencBody, loadBank_withCaps, writeBuffer_withCaps,
      endCommand_withCaps]
    rfl
  case gcmdec => exact gcmdecBody_withCaps va vb s
  all_goals cases h

/-- A block command reads the flags for `BKUSED` alone. -/
theorem commandBody_withCaps_of_needsKey (h : needsKey i = true) : ∃ u, commandBody i (withCaps va vb s) =
    { withCaps va vb (commandBody i s) with bkused := u } := by
  cases i
  case kexp | gfmul | ghash | inc32 | gcmenc | gcmdec => cases h
  case blkSE | blkSD | blkTE | blkTD => exact ⟨_, blkBody_withCaps va vb s _ _⟩
  all_goals exact ⟨_, blksBody_withCaps va vb s _ _⟩

theorem commandBody_withCaps (i : Instr) : ∃ u, commandBody i (withCaps va vb s) =
    { withCaps va vb (commandBody i s) with bkused := u } := by
  cases hk : needsKey i
  · exact ⟨(commandBody i s).bkused, commandBody_withCaps_of_keyless va vb s hk⟩
  · exact commandBody_withCaps_of_needsKey va vb s hk

end

/-- Settles O21: the units are read by the dispatcher alone, whose output is the network with any. -/
theorem capabilitiesChangeOnlyBkused : Obligations.CapabilitiesChangeOnlyBkused := by
  intro i s va vb
  refine ⟨fun t h => ?next, fun f => (samePhases_withCaps va vb s).exec_fault⟩
  obtain ⟨⟨-, hparams, -⟩, -⟩ := commandFrame i s t h
  obtain ⟨-, rfl, h'⟩ | ⟨rfl, h'⟩ := (samePhases_withCaps va vb s).exec_next h
  · exact ⟨0, h'⟩
  · obtain ⟨u, hu⟩ := commandBody_withCaps va vb s i
    refine ⟨u, h'.trans (congrArg _ (hu.trans ?_))⟩
    rw [withCaps, hparams]

/-! ## The bank (`10_state.md` R24) -/

section
variable {i : Instr} (rk : Vector Word32 32) (v : Bool) (s : State)

/-- The state with another bank. -/
def withBank (s : State) : State := { s with rk := rk, rkv := v }

theorem samePhases_withBank (h : needsKey i = false) : SamePhases i s (withBank rk v s) := by
  cases i
  case kexp | gfmul | ghash | inc32 | gcmenc | gcmdec => exact ⟨rfl, rfl, rfl⟩
  all_goals cases h

theorem endCommand_withBank (e : ErrorKind) (u : BitVec 4) :
    endCommand e u (withBank rk v s) = withBank rk v (endCommand e u s) := rfl

theorem writeBuffer_withBank (b : Buffer) (bs : List Byte) :
    writeBuffer b bs (withBank rk v s) = withBank rk v (writeBuffer b bs s) := rfl

/-- A bank that is loaded is written whole. -/
theorem loadBank_withBank (r : Vector Word32 32) : loadBank r (withBank rk v s) = loadBank r s := rfl

theorem commandBody_withBank (h : needsKey i = false) : commandBody i (withBank rk v s) =
    if writesBank i then commandBody i s else withBank rk v (commandBody i s) := by
  cases i
  case kexp | gcmdec => rfl
  case gcmenc =>
    simp only [commandBody, gcmencBody, loadBank_withBank]
    rfl
  case gfmul | ghash | inc32 =>
    simp only [commandBody, gfmulBody, ghashBody, inc32Body, writeBuffer_withBank, endCommand_withBank]
    rfl
  all_goals cases h

end

/-- Settles O18: an outcome with code 0 was computed by the body, which loads its own bank or leaves the bank
alone. -/
theorem keylessCommandsIgnoreBank : Obligations.KeylessCommandsIgnoreBank := by
  intro i s t rk v hk h herr
  obtain ⟨hc, rfl, -⟩ | ⟨rfl, h'⟩ := (samePhases_withBank rk v s hk).exec_next h
  · exact absurd (errorCode_injective (a₂ := .ok) herr) hc
  · exact h'.trans (congrArg _ (commandBody_withBank rk v s hk))

/-! ## The argument registers (`10_state.md` R21) -/

section
variable {i : Instr} {s : State} {x : Vector Word64 16}

/-- The state with other argument registers. -/
def withX (x : Vector Word64 16) (s : State) : State := { s with x := x }

@[simp] theorem withX_mem : (withX x s).mem = s.mem := rfl
@[simp] theorem withX_params : (withX x s).params = s.params := rfl
@[simp] theorem withX_rk : (withX x s).rk = s.rk := rfl
@[simp] theorem withX_rkv : (withX x s).rkv = s.rkv := rfl

@[simp] theorem endCommand_withX (e : ErrorKind) (u : BitVec 4) :
    endCommand e u (withX x s) = withX x (endCommand e u s) := rfl

@[simp] theorem writeBuffer_withX (b : Buffer) (bs : List Byte) :
    writeBuffer b bs (withX x s) = withX x (writeBuffer b bs s) := rfl

@[simp] theorem loadBank_withX (r : Vector Word32 32) : loadBank r (withX x s) = withX x (loadBank r s) := rfl

/-- The registers a command's rule names hold the same numbers. -/
def SameArguments (i : Instr) (s s' : State) : Prop := ∀ r ∈ readRegs i, xval s' r = xval s r

theorem samePhases_withX (h : SameArguments i s (withX x s)) : SamePhases i s (withX x s) where
  check := by
    cases i
    case kexp | gcmenc | gcmdec => simp_all [SameArguments, readRegs, commandCheck, kexpCheck, gcmCheck]
    all_goals rfl
  buffers := by
    cases i <;> simp_all [SameArguments, readRegs, namedBuffers, gcmNamed]
  ram := rfl

theorem blkBody_withX (h : SameArguments .blkSE s (withX x s)) (core : List Word32 → Block → Block)
    (unit : Config.Backend) : blkBody core unit (withX x s) = withX x (blkBody core unit s) := by
  simp only [SameArguments, readRegs, List.forall_mem_cons] at h
  simp [blkBody, blkDst, blkSrc, fixedBuffer, readBlock, readBuffer, h]

theorem blksBody_withX (h : SameArguments .blksSE s (withX x s)) (req : Request) (dir : Direction) :
    blksBody req dir (withX x s) = withX x (blksBody req dir s) := by
  simp only [SameArguments, readRegs, List.forall_mem_cons] at h
  simp [blksBody, blksOutput, blksInput, blksDst, blksSrc, blksCount, fixedBuffer, readBuffer, h]

theorem gcmBuffers_withX (h : SameArguments .gcmenc s (withX x s)) :
    gcmKey (withX x s) = gcmKey s ∧ gcmIv (withX x s) = gcmIv s ∧ gcmAad (withX x s) = gcmAad s ∧
      gcmInput (withX x s) = gcmInput s ∧ gcmOutput (withX x s) = gcmOutput s ∧
      gcmTag (withX x s) = gcmTag s := by
  simp_all [SameArguments, readRegs, gcmKey, gcmIv, gcmAad, gcmInput, gcmOutput, gcmTag, fixedBuffer, sizedBuffer]

theorem gcmencBody_withX (h : SameArguments .gcmenc s (withX x s)) :
    gcmencBody (withX x s) = withX x (gcmencBody s) := by
  simp [gcmencBody, gcmTagOf, gcmCtr, gcmStart, gcmBank, readBlock, readBuffer, gcmBuffers_withX h]

theorem gcmdecBody_withX (h : SameArguments .gcmenc s (withX x s)) :
    gcmdecBody (withX x s) = withX x (gcmdecBody s) := by
  have hverifies : gcmVerifies (withX x s) = gcmVerifies s := by
    simp [gcmVerifies, gcmTagOf, gcmStart, gcmBank, readBlock, readBuffer, gcmBuffers_withX h]
  rw [gcmdecBody, gcmdecBody, hverifies, apply_ite (withX x)]
  simp [gcmCtr, gcmStart, gcmBank, readBlock, readBuffer, gcmBuffers_withX h]

theorem commandBody_withX (h : SameArguments i s (withX x s)) :
    commandBody i (withX x s) = withX x (commandBody i s) := by
  cases i
  case kexp => simp_all [SameArguments, readRegs, commandBody, kexpBody, kexpKey, fixedBuffer, readBlock, readBuffer]
  case gfmul =>
    simp_all [SameArguments, readRegs, commandBody, gfmulBody, gfmulA, gfmulB, gfmulDst, fixedBuffer, readBlock,
      readBuffer]
  case ghash =>
    simp_all [SameArguments, readRegs, commandBody, ghashBody, ghashKey, ghashAad, ghashData, ghashDst, fixedBuffer,
      sizedBuffer, readBlock, readBuffer]
  case inc32 =>
    simp_all [SameArguments, readRegs, commandBody, inc32Body, inc32Src, inc32Dst, fixedBuffer, readBlock, readBuffer]
  case gcmenc => exact gcmencBody_withX h
  case gcmdec => exact gcmdecBody_withX h
  case blkSE | blkSD | blkTE | blkTD => exact blkBody_withX h _ _
  all_goals exact blksBody_withX h _ _

end

/-- Settles O16: checks, buffers and body read the argument registers only by the numbers in those the rule
names. -/
theorem commandsReadOnlyNamedRegisters : Obligations.CommandsReadOnlyNamedRegisters := by
  intro i s x hx
  have hargs : SameArguments i s (withX x s) := fun r hr => congrArg BitVec.toNat (hx r hr)
  have hphases := samePhases_withX hargs
  cases h : exec i s with
  | next t =>
    obtain ⟨-, rfl, h'⟩ | ⟨rfl, h'⟩ := hphases.exec_next h
    · exact h'
    · exact h'.trans (congrArg _ (commandBody_withX hargs))
  | fault f => exact hphases.exec_fault h
  | refused r => exact absurd h exec_not_refused

end Sys2Proof.Proofs

/-! # Buffers, and the results of the BLKS commands

A buffer reads what was last written to it; a buffer of whole blocks is its blocks one after the other, and the
bytes of its blocks are its bytes. -/

namespace Sys2Proof.Proofs

open Sys2Proof.Machine Sys2Proof.Safety

/-! ## Memory -/

theorem memReadBytes_memWriteBytes {m : Memory} (hm : Memory.wf m = true) (a : Nat) (bs : List Byte) :
    memReadBytes (memWriteBytes m a bs) a bs.length = bs := by
  apply List.ext_getElem
  · rw [memReadBytes_length]
  · intro k _ hk
    rw [memReadBytes_getElem, memRead_memWriteBytes_inside hm hk]

/-- Settles O22: the parts are the laws of memory, read byte by byte. -/
theorem memoryReadsWhatWasWritten : Obligations.MemoryReadsWhatWasWritten := fun m a bs hm =>
  ⟨memReadBytes_memWriteBytes hm a bs, fun _ => memRead_memWriteBytes_outside m bs, memWriteBytes_wf hm a bs, rfl⟩

theorem memReadBytes_add (m : Memory) (a j k : Nat) :
    memReadBytes m a (j + k) = memReadBytes m a j ++ memReadBytes m (a + j) k := by
  induction j generalizing a with
  | zero => simp [memReadBytes]
  | succ j ih => rw [Nat.add_right_comm, memReadBytes, memReadBytes, ih, Nat.add_right_comm a, List.cons_append]; rfl

/-! ## Blocks of a byte sequence -/

theorem blocksOfBytes_memReadBytes (m : Memory) (a n : Nat) : blocksOfBytes n (memReadBytes m a (16 * n)) =
    (List.range n).map fun k => blockOfBytes (memReadBytes m (a + 16 * k) 16) := by
  induction n generalizing a with
  | zero => rfl
  | succ n ih =>
    rw [Nat.mul_succ, Nat.add_comm (16 * n), memReadBytes_add, blocksOfBytes,
      List.take_left' (memReadBytes_length _ _ _), List.drop_left' (memReadBytes_length _ _ _), ih,
      List.range_succ_eq_map, List.map_cons, List.map_map]
    refine congrArg _ (List.map_congr_left fun k _ => ?_)
    rw [Function.comp_apply, Nat.mul_succ, Nat.add_assoc, Nat.add_comm 16]

/-- Whole blocks hold all bytes there are. -/
theorem bytesOfBlocks_blocksOfBytes {n : Nat} {bs : List Byte} (h : bs.length = 16 * n) :
    bytesOfBlocks (blocksOfBytes n bs) = bs := by
  induction n generalizing bs with
  | zero => rw [List.eq_nil_of_length_eq_zero h]; rfl
  | succ n ih =>
    have hlen : (bs.take 16).length = 16 := List.length_take_of_le (by omega)
    rw [blocksOfBytes, bytesOfBlocks, List.flatMap_cons, bytesOfBlock_blockOfBytes hlen, ← bytesOfBlocks,
      ih (by rw [List.length_drop]; omega), List.take_append_drop]

theorem pad16_length (bs : List Byte) : (pad16 bs).length = 16 * ceilDiv16 bs.length := by
  rw [pad16, List.length_append, List.length_replicate, ceilDiv16]
  omega

/-- Settles O43: padding fills up to `16 * ceilDiv16` bytes, and the blocks hold them all. -/
theorem paddingFillsWithZeros : Obligations.PaddingFillsWithZeros := by
  intro bs
  refine ⟨16 * ceilDiv16 bs.length - bs.length, ?fewest, bytesOfBlocks_blocksOfBytes (pad16_length bs), ?whole⟩
  case fewest => rw [ceilDiv16]; omega
  case whole => rw [paddedBlocks, blocksOfBytes_length, ceilDiv16]; omega

/-- Settles O50. -/
theorem tagComparisonIsEquality : Obligations.TagComparisonIsEquality := fun _ _ _ => tagEqual_iff_eq

/-! ## The BLKS commands (`45_dispatch.md` R199) -/

theorem bytesOfBlocks_getElem? {bs : List Block} {k : Nat} (hk : k < bs.length) {j : Nat} (hj : j < 16) :
    (bytesOfBlocks bs)[16 * k + j]? = (bytesOfBlock bs[k])[j]? := by
  induction bs generalizing k with
  | nil => simp at hk
  | cons b bs ih =>
    rw [bytesOfBlocks, List.flatMap_cons, ← bytesOfBlocks]
    cases k with
    | zero => simp [List.getElem?_append_left, hj]
    | succ k =>
      have hk' : k < bs.length := Nat.lt_of_succ_lt_succ hk
      rw [List.getElem?_append_right (by rw [bytesOfBlock_length]; omega), bytesOfBlock_length,
        show 16 * (k + 1) + j - 16 = 16 * k + j by omega, ih hk', List.getElem_cons_succ]

/-- Where the bytes of a sequence of blocks stand, each block stands in its place. -/
theorem holdsBytes_block {t : State} {a : Nat} {bs : List Block} (h : HoldsBytes t a (bytesOfBlocks bs)) {k : Nat}
    (hk : k < bs.length) : HoldsBytes t (a + 16 * k) (bytesOfBlock bs[k]) := by
  intro j hj
  have hj' : j < 16 := by rwa [bytesOfBlock_length] at hj
  have hlt : 16 * k + j < (bytesOfBlocks bs).length := by rw [bytesOfBlocks_length]; omega
  have hbyte := bytesOfBlocks_getElem? hk hj'
  rw [List.getElem?_eq_getElem hlt, List.getElem?_eq_getElem hj, Option.some_inj] at hbyte
  rw [Nat.add_assoc, h _ hlt, hbyte]

section
variable {s : State} {req : Request} {dir : Direction}

theorem blksInput_eq_map (s : State) :
    blksInput s = (List.range (xval s 2)).map fun k => blockAt s (xval s 0 + 16 * k) :=
  blocksOfBytes_memReadBytes _ _ _

theorem blksBody_mem : (blksBody req dir s).mem = memWriteBytes s.mem (xval s 1)
    (bytesOfBlocks ((blksInput s).map (crypt (keysFor dir s.rk.toList)))) := by
  rw [blksBody_eq]
  rfl

theorem blksInput_getElem {k : Nat} (hk : k < (blksInput s).length) :
    (blksInput s)[k] = blockAt s (xval s 0 + 16 * k) := by
  simp [blksInput_eq_map]

theorem blksBody_holds_blocks (hwf : Memory.wf s.mem = true) : ∀ k < xval s 2,
    HoldsBytes (blksBody req dir s) (xval s 1 + 16 * k)
      (bytesOfBlock (crypt (keysFor dir s.rk.toList) (blockAt s (xval s 0 + 16 * k)))) := by
  intro k hk
  have hin : k < (blksInput s).length := by rwa [blksInput, blocksOfBytes_length]
  have hholds : HoldsBytes (blksBody req dir s) (xval s 1) _ := holdsBytes_of_mem (b := blksDst s) blksBody_mem hwf
  have hblock := holdsBytes_block hholds (by rwa [List.length_map])
  rwa [List.getElem_map, blksInput_getElem hin] at hblock

theorem blksBody_sameOutside : SameOutside [⟨xval s 1, 16 * xval s 2⟩] s (blksBody req dir s) :=
  sameOutside_of_mem blksBody_mem (blksBody_bytes_length dir s)

theorem blksBody_sameHostSide : SameHostSide s (blksBody req dir s) := by
  simp [SameHostSide, blksBody]

theorem blksBody_sameBank : SameBank s (blksBody req dir s) := by
  simp [SameBank, blksBody]

theorem blksBody_bkused :
    (blksBody req dir s).bkused = bkusedTable req (xval s 2) s.params.capVA s.params.capVB := by
  rw [blksBody_eq]
  rfl

theorem keysFor_eq (rk : List Word32) : (if dir = .encrypt then rk else rk.reverse) = keysFor dir rk := by
  cases dir <;> rfl

end

/-- Settles O35: the words are the encoder's, and the frame of R199 has three outcomes. -/
theorem blksTransformsBlocks : Obligations.BlksTransformsBlocks := by
  refine ⟨by decide, fun s req dir => ?_⟩
  simp only [exec_blksInstr, keysFor_eq]
  refine ⟨fun hv => blksCommand_next_iff.2 (.inl ⟨hv, rfl⟩), blksCommand_fault, fun hv hsrc hdst hwf => ?_⟩
  exact ⟨blksBody req dir s, blksCommand_next_iff.2 (.inr ⟨hv, hsrc, hdst, rfl⟩),
    blksBody_holds_blocks hwf, blksBody_sameOutside, blksBody_sameHostSide, blksBody_sameBank, rfl, blksBody_bkused⟩

end Sys2Proof.Proofs

/-! # The S-box, and the diffusion

The product of the S-box's field is linear in both factors, so a law of it is checked on the eight powers of `x`.
The laws give that an element has one inverse, and the inverse is read off the table. -/

namespace Sys2Proof.Proofs

open Sys2Proof.Machine Sys2Proof.Safety

/-! ## The algebraic form of the S-box (`40_sm4_primitives.md` R111) -/

theorem polyMod_xor (m d n p q : Nat) : polyMod m d n (p ^^^ q) = polyMod m d n p ^^^ polyMod m d n q := by
  induction n generalizing p q with
  | zero => rfl
  | succ n ih =>
    rw [polyMod, polyMod, polyMod, ← ih]
    congr 1
    rw [Nat.testBit_xor]
    cases p.testBit (d + n) <;> cases q.testBit (d + n)
    · rfl
    · simp only [Bool.false_xor, cond_true, cond_false]; ac_rfl
    · simp only [Bool.xor_false, cond_true, cond_false]; ac_rfl
    · simp only [Bool.xor_self, cond_true, cond_false]
      rw [Nat.xor_assoc p, Nat.xor_left_comm (m <<< n), Nat.xor_self, Nat.xor_zero]

section
variable (m : Nat) (a y z : Byte)

theorem gf8Mul_xor : gf8Mul m a (y ^^^ z) = gf8Mul m a y ^^^ gf8Mul m a z := by
  rw [gf8Mul, BitVec.toNat_xor, clmul_xor_right, polyMod_xor, BitVec.ofNat_xor]
  rfl

theorem gf8Mul_comm : gf8Mul m a y = gf8Mul m y a := by
  rw [gf8Mul, clmul_comm, gf8Mul]

theorem gf8Mul_xor_left : gf8Mul m (y ^^^ z) a = gf8Mul m y a ^^^ gf8Mul m z a := by
  simp only [gf8Mul_comm m _ a, gf8Mul_xor]

theorem gf8Mul_zero : gf8Mul m a 0 = 0 := by
  have h := gf8Mul_xor m a 0 0
  rwa [BitVec.xor_self, BitVec.xor_self] at h

end

/-- The byte that stands for `x^i`. -/
def bytePow (i : Nat) : Byte := BitVec.ofNat 8 (1 <<< i)

/-- A map on bytes that carries sums to sums. -/
def ByteLinear (f : Byte → Byte) : Prop := ∀ y z : Byte, f (y ^^^ z) = f y ^^^ f z

section
variable {f g : Byte → Byte}

/-- Read on numbers, a linear map on bytes is one on polynomials. -/
theorem ByteLinear.xorLinear (hf : ByteLinear f) : XorLinear fun n => (f (BitVec.ofNat 8 n)).toNat := by
  intro a b
  simp only [BitVec.ofNat_xor, hf _ _, BitVec.toNat_xor]

theorem bytePow_of_le {n : Nat} (h : 8 ≤ n) : bytePow n = BitVec.ofNat 8 0 := by
  apply BitVec.eq_of_toNat_eq
  rw [bytePow, BitVec.toNat_ofNat, Nat.one_shiftLeft]
  exact Nat.mod_eq_zero_of_dvd (Nat.pow_dvd_pow 2 h)

/-- Two linear maps on bytes that agree on the powers of `x` are equal. -/
theorem ByteLinear.ext (hf : ByteLinear f) (hg : ByteLinear g) (h : ∀ i : Fin 8, f (bytePow i) = g (bytePow i))
    (z : Byte) : f z = g z := by
  have hpow : ∀ n, (f (bytePow n)).toNat = (g (bytePow n)).toNat := fun n => by
    by_cases hn : n < 8
    · exact congrArg BitVec.toNat (h ⟨n, hn⟩)
    · rw [bytePow_of_le (Nat.not_lt.1 hn)]
      exact hf.xorLinear.map_zero.trans hg.xorLinear.map_zero.symm
  have heq := hf.xorLinear.ext hg.xorLinear hpow z.toNat
  simpa using BitVec.eq_of_toNat_eq heq

end

/-- The affine map that undoes the one of the S-box. -/
def affineSInv : Affine := ⟨[0x43, 0x86, 0x0D, 0x1A, 0x34, 0x68, 0xD0, 0xA1], 0x75⟩

/-- The table's value with the outer affine map undone. -/
def sboxCore (b : Byte) : Byte := affineApply affineSInv (sbox b)

theorem affineApply_sboxCore : ∀ b : Byte, affineApply affineS (sboxCore b) = sbox b := by decide +kernel

theorem sboxCore_of_affineApply_eq_zero : ∀ b : Byte, affineApply affineS b = 0 → sboxCore b = 0 := by
  decide +kernel

theorem gf8Mul_sboxCore : ∀ b : Byte, affineApply affineS b ≠ 0 →
    gf8Mul polyS (affineApply affineS b) (sboxCore b) = 1 := by
  decide +kernel

theorem gf8Mul_one (a : Byte) : gf8Mul polyS a 1 = a := by
  have hpow : ∀ i : Fin 8, gf8Mul polyS (bytePow i) 1 = bytePow i := by decide +kernel
  exact ByteLinear.ext (f := (gf8Mul polyS · 1)) (g := id) (fun y z => gf8Mul_xor_left _ _ y z) (fun _ _ => rfl) hpow a

theorem gf8Mul_left_comm (a b c : Byte) :
    gf8Mul polyS a (gf8Mul polyS b c) = gf8Mul polyS b (gf8Mul polyS a c) := by
  have hpow : ∀ i j k : Fin 8, gf8Mul polyS (bytePow i) (gf8Mul polyS (bytePow j) (bytePow k)) =
    gf8Mul polyS (bytePow j) (gf8Mul polyS (bytePow i) (bytePow k)) := by decide +kernel
  refine ByteLinear.ext (f := fun a => gf8Mul polyS a (gf8Mul polyS b c))
    (g := fun a => gf8Mul polyS b (gf8Mul polyS a c)) ?_ ?_ (fun i => ?_) a
  · exact fun y z => gf8Mul_xor_left _ _ y z
  · exact fun y z => by simp only [gf8Mul_xor_left, gf8Mul_xor]
  refine ByteLinear.ext (f := fun b => gf8Mul polyS (bytePow i) (gf8Mul polyS b c))
    (g := fun b => gf8Mul polyS b (gf8Mul polyS (bytePow i) c)) ?_ ?_ (fun j => ?_) b
  · exact fun y z => by simp only [gf8Mul_xor_left, gf8Mul_xor]
  · exact fun y z => gf8Mul_xor_left _ _ y z
  refine ByteLinear.ext (f := fun c => gf8Mul polyS (bytePow i) (gf8Mul polyS (bytePow j) c))
    (g := fun c => gf8Mul polyS (bytePow j) (gf8Mul polyS (bytePow i) c)) ?_ ?_ (hpow i j) c
  · exact fun y z => by simp only [gf8Mul_xor]
  · exact fun y z => by simp only [gf8Mul_xor]

/-- An element has one inverse. -/
theorem gf8Mul_inverse_unique {a y z : Byte} (hy : gf8Mul polyS a y = 1) (hz : gf8Mul polyS a z = 1) : y = z :=
  calc y = gf8Mul polyS y (gf8Mul polyS a z) := by rw [hz, gf8Mul_one]
    _ = gf8Mul polyS z (gf8Mul polyS a y) := by rw [gf8Mul_comm _ a z, gf8Mul_left_comm, gf8Mul_comm _ y a]
    _ = z := by rw [hy, gf8Mul_one]

/-- Settles O28: the inverse is the only `y` there is, and it is the table's value with the outer map undone. -/
theorem sboxAlgebraicForm : Obligations.SboxAlgebraicForm := by
  intro b y h
  suffices hy : y = sboxCore b by rw [hy, affineApply_sboxCore]
  obtain ⟨h0, rfl⟩ | hinv := h
  · exact (sboxCore_of_affineApply_eq_zero b h0).symm
  · have hne : affineApply affineS b ≠ 0 := fun h0 => by
      rw [h0, gf8Mul_comm, gf8Mul_zero] at hinv
      exact absurd hinv (by decide)
    exact gf8Mul_inverse_unique hinv (gf8Mul_sboxCore b hne)

/-! ## The diffusion (`40_sm4_primitives.md` R105) -/

theorem getLsbD_rotl (x : Word32) (n : Nat) {i : Nat} (hi : i < 32) :
    (rotl x n).getLsbD i = x.getLsbD ((i + (32 - n % 32)) % 32) := by
  rw [rotl, BitVec.getLsbD_rotateLeft]
  by_cases h : i < n % 32
  · simp [h, show (i + (32 - n % 32)) % 32 = 32 - n % 32 + i by omega]
  · simp [h, hi, show (i + (32 - n % 32)) % 32 = i - n % 32 by omega]

theorem rotl_rotl_comm (x : Word32) (m n : Nat) : rotl (rotl x m) n = rotl (rotl x n) m := by
  apply BitVec.eq_of_getLsbD_eq
  intro i hi
  simp only [getLsbD_rotl, hi, Nat.mod_lt _ (show 0 < 32 by decide)]
  congr 1
  omega

theorem linL_rotl (x : Word32) (n : Nat) : linL (rotl x n) = rotl (linL x) n := by
  simp only [linL, rotl_xor, rotl_rotl_comm x n]

theorem wordByte_tau (x : Word32) {j : Nat} (hj : j < 4) : wordByte (tau x) j = sbox (wordByte x j) := by
  obtain ⟨h0, h1, h2, h3⟩ := wordByte_append (sbox (wordByte x 0)) (sbox (wordByte x 1)) (sbox (wordByte x 2))
    (sbox (wordByte x 3))
  match j, hj with
  | 0, _ => exact h0
  | 1, _ => exact h1
  | 2, _ => exact h2
  | 3, _ => exact h3

/-- Settles O29: `L` is a sum of rotations, and `tau` is bytewise. -/
theorem diffusionLaws : Obligations.DiffusionLaws := by
  refine ⟨linL_xor, rfl, linL_rotl, fun x y j hj h => ?byte, fun x => ?sum, 1, 2, ?or⟩
  case sum => simpa [tabT, tab] using (tabT_eq_roundT x).symm
  case byte => rw [wordByte_tau x hj, wordByte_tau y hj, h]
  case or => decide +kernel

end Sys2Proof.Proofs

/-! # The multiplier, and GHASH as a polynomial -/

namespace Sys2Proof.Proofs

open Sys2Proof.Machine Sys2Proof.Safety

/-- Settles O37: two folds stay in the class modulo `g` and end below `2^128`. -/
theorem reduceIsRemainder : Obligations.ReduceIsRemainder := by
  intro p hp
  obtain ⟨q, hq⟩ := gfReduce_congModG p
  refine ⟨gfReduce_lt hp, q, ?_⟩
  rw [← hq, Nat.xor_comm (gfReduce p), Nat.xor_assoc, Nat.xor_self, Nat.xor_zero]

/-! ## The bit-serial product (`46_gf128.md` R203) -/

/-- `a * x` in the field: a shift, and one fold of the bit shifted out. -/
def timesX (a : Elem) : Elem := if a.getLsbD 127 then (a <<< 1) ^^^ 0x87 else a <<< 1

theorem getLsbD_127_toNat (a : Elem) : (a.getLsbD 127).toNat = a.toNat <<< 1 / 2 ^ 128 := by
  have hlt := a.isLt
  rw [BitVec.getLsbD, Nat.testBit_eq_decide_div_mod_eq, Nat.shiftLeft_eq]
  by_cases h : a.toNat / 2 ^ 127 % 2 = 1
  · rw [decide_eq_true h, Bool.toNat_true]
    omega
  · rw [decide_eq_false h, Bool.toNat_false]
    omega

theorem timesX_toNat (a : Elem) : (timesX a).toNat = foldG (a.toNat <<< 1) := by
  rw [foldG, ← getLsbD_127_toNat, timesX]
  cases a.getLsbD 127
  · simp [clmul_comm 0]
  · simp [clmul_one_left]

theorem timesX_congModG (a : Elem) : CongModG (timesX a).toNat (a.toNat <<< 1) := by
  rw [timesX_toNat]
  exact foldG_congModG _

theorem clmul_lowBit (a c : Elem) : clmul a.toNat (c.toNat % 2) = (if c.getLsbD 0 then a else 0).toNat := by
  rw [BitVec.getLsbD, Nat.testBit_zero]
  obtain h | h := Nat.mod_two_eq_zero_or_one c.toNat
  · simp [h]
  · simp [h]

/-- The product by the bits of the second factor above the lowest. -/
theorem gfMul_timesX_congModG (a c : Elem) :
    CongModG (gfMul (timesX a) (c >>> 1)).toNat (clmul a.toNat ((c.toNat / 2) <<< 1)) := by
  have h := (gfMul_congModG (timesX a) (c >>> 1)).trans ((timesX_congModG a).clmul_right (c >>> 1).toNat)
  rwa [clmul_comm (a.toNat <<< 1), clmul_shiftLeft, clmul_comm _ a.toNat, ← clmul_shiftLeft, BitVec.toNat_ushiftRight,
    Nat.shiftRight_one] at h

/-- One bit of the second factor, then the bits above it. -/
theorem gfMul_eq_lowBit_xor (a c : Elem) :
    gfMul a c = (if c.getLsbD 0 then a else 0) ^^^ gfMul (timesX a) (c >>> 1) := by
  have hsplit : clmul a.toNat c.toNat = clmul a.toNat (c.toNat % 2) ^^^ clmul a.toNat ((c.toNat / 2) <<< 1) := by
    rw [← clmul_xor_right, Nat.xor_comm]
    exact congrArg _ (shiftLeft_div_xor_mod c.toNat 1).symm
  have h := gfMul_congModG a c
  rw [hsplit, clmul_lowBit] at h
  apply eq_of_congModG
  rw [BitVec.toNat_xor]
  exact h.trans (CongModG.xor ⟨0, by simp [clmul_comm 0]⟩ (gfMul_timesX_congModG a c).symm)

/-- `n` turns of the serial product add the product with the bits of `b` from bit `i` on. -/
theorem gfSerialFrom_eq (n i : Nat) (h : i + n = 128) (a b r : Elem) :
    gfSerialFrom n a b i r = r ^^^ gfMul a (b >>> i) := by
  induction n generalizing i a r with
  | zero =>
    have hb : b >>> i = 0 := BitVec.ushiftRight_eq_zero (Nat.le_of_eq h.symm)
    rw [gfSerialFrom, hb, gfMul_zero]
    exact BitVec.xor_zero.symm
  | succ n ih =>
    have hbit : (b >>> i).getLsbD 0 = b.getLsbD i := BitVec.getLsbD_ushiftRight b i 0
    rw [gfSerialFrom, ih (i + 1) (by omega), gfMul_eq_lowBit_xor a (b >>> i), ← timesX, hbit, ← BitVec.shiftRight_add,
      ← BitVec.xor_assoc]
    cases b.getLsbD i
    · exact congrArg (· ^^^ _) BitVec.xor_zero.symm
    · rfl

/-- Settles O38: 128 turns from bit 0 on. -/
theorem gfMulIsBitSerial : Obligations.GfMulIsBitSerial := by
  intro a b
  rw [gfSerial, gfSerialFrom_eq 128 0 rfl]
  simp

/-! ## Products of Blocks (`46_gf128.md` R205 to R207) -/

section
variable (o : Config.BitOrder) (a b c : Block)

theorem elemOfBlock_xor : elemOfBlock o (a ^^^ b) = elemOfBlock o a ^^^ elemOfBlock o b := by
  cases o
  · apply BitVec.eq_of_getLsbD_eq
    intro i hi
    simp [elemOfBlock, BitVec.getLsbD_reverse]
  · rfl

theorem blockOfElem_xor : blockOfElem o (a ^^^ b) = blockOfElem o a ^^^ blockOfElem o b := by
  rw [blockOfElem_eq_iff, elemOfBlock_xor, elemOfBlock_blockOfElem, elemOfBlock_blockOfElem]

theorem elemOfBlock_zero : elemOfBlock o 0 = 0 := by
  have h := elemOfBlock_xor o 0 0
  rwa [BitVec.xor_self, BitVec.xor_self] at h

theorem elemOfBlock_gfMulBlk : elemOfBlock o (gfMulBlk o a b) = gfMul (elemOfBlock o a) (elemOfBlock o b) :=
  elemOfBlock_blockOfElem o _

theorem gfMulBlk_comm : gfMulBlk o a b = gfMulBlk o b a := by
  rw [gfMulBlk, gfMul_comm, ← gfMulBlk]

theorem gfMulBlk_assoc : gfMulBlk o (gfMulBlk o a b) c = gfMulBlk o a (gfMulBlk o b c) := by
  rw [gfMulBlk, elemOfBlock_gfMulBlk, gfMul_assoc, ← elemOfBlock_gfMulBlk, ← gfMulBlk]

theorem gfMulBlk_xor_left : gfMulBlk o (a ^^^ b) c = gfMulBlk o a c ^^^ gfMulBlk o b c := by
  rw [gfMulBlk_comm o a, gfMulBlk_comm o b, gfMulBlk_comm, gfMulBlk, elemOfBlock_xor, gfMul_xor, blockOfElem_xor]
  rfl

theorem gfMulBlk_zero : gfMulBlk o a 0 = 0 := by
  rw [gfMulBlk, elemOfBlock_zero, gfMul_zero, blockOfElem_eq_iff, elemOfBlock_zero]

theorem gfMulBlk_zero_left : gfMulBlk o 0 a = 0 := by rw [gfMulBlk_comm, gfMulBlk_zero]

/-- `h^0` is the identity (`46_gf128.md` R207). -/
theorem gfMulBlk_blkPow_zero (h : Block) : gfMulBlk o a (blkPow o h 0) = a := by
  rw [blkPow, gfMulBlk, elemOfBlock_blockOfElem, gfMul_one, blockOfElem_elemOfBlock]

/-! ## GHASH (`47_ghash.md` R219) -/

variable (h : Block)

/-- Absorbing `m` blocks carries the accumulator up by `h^m` and adds their polynomial. -/
theorem foldl_absorb (acc : Block) (ys : List Block) :
    ys.foldl (absorb o h) acc = gfMulBlk o acc (blkPow o h ys.length) ^^^ hornerSum o h ys := by
  induction ys generalizing acc with
  | nil =>
    rw [List.foldl_nil, List.length_nil, gfMulBlk_blkPow_zero]
    exact BitVec.xor_zero.symm
  | cons y ys ih =>
    rw [List.foldl_cons, ih, absorb, gfMulBlk_assoc, gfMulBlk_comm o h, ← blkPow, gfMulBlk_xor_left, hornerSum,
      List.length_cons, BitVec.xor_assoc]

variable (aad data : List Byte)

theorem ghashOf_eq_foldl : ghashOf o h aad data =
    (paddedBlocks aad ++ paddedBlocks data ++ [lenBlock aad.length data.length]).foldl (absorb o h) 0 := by
  rw [List.foldl_append, List.foldl_append]
  rfl

theorem absorb_zero_key (acc y : Block) : absorb o 0 acc y = 0 := gfMulBlk_zero o _

theorem ghashOf_nil_nil : ghashOf o h [] [] = 0 := by
  have hlen : lenBlock 0 0 = 0 := by decide
  calc ghashOf o h [] [] = absorb o h 0 (lenBlock 0 0) := rfl
    _ = gfMulBlk o 0 h := by rw [hlen, absorb, BitVec.xor_self]; rfl
    _ = 0 := gfMulBlk_zero_left o h

end

/-- Settles O44: GHASH absorbs its blocks into a zero accumulator. -/
theorem ghashIsPolynomial : Obligations.GhashIsPolynomial := by
  intro o h aad data
  refine ⟨ghashOf_nil_nil o h, absorb_zero_key o _ _, ?_⟩
  rw [ghashOf_eq_foldl, foldl_absorb, gfMulBlk_zero_left]
  exact BitVec.zero_xor

end Sys2Proof.Proofs

/-! # Two GCM commands on one message (`48_gcm.md` section 7)

The keystream and the tag depend on the key, the IV, the AAD, the lengths and the bit order only: between two
states that agree on these, the same ciphertext has the same tag and the same plaintext. -/

namespace Sys2Proof.Proofs

open Sys2Proof.Machine Sys2Proof.Safety

section
variable {i : Instr} {s s' t : State}

/-- A command that ended `Ok` passed its checks, could access its buffers, and ran its body. -/
theorem exec_ended_ok (h : exec i s = .next t) (herr : t.err = 0) :
    ChecksPass i s ∧ (∀ b ∈ namedBuffers i s, Reachable s.params b) ∧ t = commandBody i s := by
  obtain ⟨hne, rfl⟩ | ⟨hc, hb, ht⟩ := exec_next_iff.1 h
  · exact absurd (errorCode_injective (a₂ := .ok) herr) hne
  · exact ⟨commandCheck_ok_iff.1 hc, hb, ht⟩

theorem readBytes_of_sameOutside {bs : List Buffer} {c : Buffer} (h : SameOutside bs s t)
    (hapart : ∀ b ∈ bs, Apart c b) : memReadBytes t.mem c.addr c.len = memReadBytes s.mem c.addr c.len := by
  refine memReadBytes_congr fun k hk => h _ fun b hb hin => ?_
  have := hapart b hb
  omega

theorem readBytes_of_holdsBytes {a : Nat} {bs : List Byte} (h : HoldsBytes t a bs) :
    memReadBytes t.mem a bs.length = bs := by
  apply List.ext_getElem
  · rw [memReadBytes_length]
  · intro k _ hk
    rw [memReadBytes_getElem, h k hk]

/-! ## What the keystream and the tag depend on -/

/-- The key, the IV, the AAD, the tag length and the bit order of a GCM command are the same. -/
structure SameGcmContext (s s' : State) : Prop where
  order : s'.params.bitOrder = s.params.bitOrder
  key : blockAt s' (xval s' 0) = blockAt s (xval s 0)
  ivLength : xval s' 3 = xval s 3
  iv : memReadBytes s'.mem (xval s' 2) (xval s' 3) = memReadBytes s.mem (xval s 2) (xval s 3)
  aad : memReadBytes s'.mem (xval s' 4) (xval s' 5) = memReadBytes s.mem (xval s 4) (xval s 5)
  tagLength : xval s' 10 = xval s 10

/-- The buffers that GCM commands with one context read: the key, the IV and the AAD. -/
def gcmContextBuffers (s : State) : List Buffer := [⟨xval s 0, 16⟩, ⟨xval s 2, xval s 3⟩, ⟨xval s 4, xval s 5⟩]

theorem sameGcmContext_of_sameOutside {bs : List Buffer}
    (hx : ∀ r ∈ ([0, 2, 3, 4, 5, 10] : List (Fin 16)), xval s' r = xval s r) (hparams : s'.params = s.params)
    (hmem : SameOutside bs s s') (hapart : ∀ c ∈ gcmContextBuffers s, ∀ b ∈ bs, Apart c b) : SameGcmContext s s' := by
  simp only [List.forall_mem_cons, gcmContextBuffers] at hx hapart
  obtain ⟨h0, h2, h3, h4, h5, h10, -⟩ := hx
  obtain ⟨hkey, hiv, haad, -⟩ := hapart
  refine ⟨by rw [hparams], ?_, h3, ?_, ?_, h10⟩
  · rw [h0]
    exact congrArg blockOfBytes (readBytes_of_sameOutside hmem hkey)
  · rw [h2, h3]
    exact readBytes_of_sameOutside hmem hiv
  · rw [h4, h5]
    exact readBytes_of_sameOutside hmem haad

theorem SameGcmContext.keys (h : SameGcmContext s s') : gcmKeys s' = gcmKeys s := by
  rw [gcmKeys, h.key, gcmKeys]

theorem SameGcmContext.subkey (h : SameGcmContext s s') : gcmSubkey s' = gcmSubkey s := by
  rw [gcmSubkey, h.keys, gcmSubkey]

theorem SameGcmContext.counter0 (h : SameGcmContext s s') : gcmCounter0 s' = gcmCounter0 s := by
  have hiv := h.iv
  rw [gcmCounter0, gcmCounter0, h.subkey, h.order, h.iv, h.ivLength]
  split_ifs with h12
  · rw [h.ivLength, h12] at hiv
    rw [hiv]
  · rfl

theorem SameGcmContext.tagOver (h : SameGcmContext s s') (c : List Byte) : gcmTagOver s' c = gcmTagOver s c := by
  rw [gcmTagOver, gcmTagOver, h.order, h.subkey, h.aad, h.keys, h.counter0, h.tagLength]

end

/-! ## GCMDEC after GCMENC -/

section
variable {s : State} {v : Word64} {r j : Fin 16}

theorem xval_setX_same : xval (setX r v s) r = v.toNat := by
  rw [xval, setX_get, if_pos rfl]

theorem xval_setX_ne (h : j ≠ r) : xval (setX r v s) j = xval s j := by
  rw [xval, setX_get, if_neg h, xval]

end

section
variable {s : State} {out : Word64}

/-- The registers set for GCMDEC: what is at `X8` as input, and another output address. -/
def gcmTurned (out : Word64) (s : State) : State := setX 8 out (setX 6 (s.x.get 8) s)

theorem xval_gcmTurned_input : xval (gcmTurned out s) 6 = xval s 8 := by
  rw [gcmTurned, xval_setX_ne (by decide), xval_setX_same, xval]

theorem xval_gcmTurned_output : xval (gcmTurned out s) 8 = out.toNat := xval_setX_same

theorem xval_gcmTurned {r : Fin 16} (h6 : r ≠ 6) (h8 : r ≠ 8) : xval (gcmTurned out s) r = xval s r := by
  rw [gcmTurned, xval_setX_ne h8, xval_setX_ne h6]

/-- The other registers a GCM command reads. -/
theorem xval_gcmTurned_others : ∀ r ∈ ([0, 1, 2, 3, 4, 5, 7, 9, 10] : List (Fin 16)),
    xval (gcmTurned out s) r = xval s r := by
  intro r hr
  apply xval_gcmTurned <;> rintro rfl <;> revert hr <;> decide

theorem gcmLengthsOk_gcmTurned (h : GcmLengthsOk s) : GcmLengthsOk (gcmTurned out s) := by
  have hx := xval_gcmTurned_others (s := s) (out := out)
  simp only [List.forall_mem_cons] at hx
  simpa only [GcmLengthsOk, hx] using h

/-- The buffers of the second command are those of the first, but for its output. -/
theorem reachable_gcmTurned (hb : ∀ b ∈ gcmNamed s, Reachable s.params b)
    (hout : Reachable s.params ⟨out.toNat, xval s 7⟩) :
    ∀ b ∈ gcmNamed (gcmTurned out s), Reachable (gcmTurned out s).params b := by
  have hx := xval_gcmTurned_others (s := s) (out := out)
  simp only [List.forall_mem_cons] at hx
  simp only [gcmNamed, xval_gcmTurned_input, xval_gcmTurned_output, hx, List.forall_mem_cons] at hb ⊢
  obtain ⟨hkey, hiv, haad, -, houtput, htag, -⟩ := hb
  exact ⟨hkey, hiv, haad, houtput, hout, htag, nofun⟩

/-- The state in which GCMDEC runs on what GCMENC left. -/
def roundTripState (out : Word64) (s : State) : State := gcmTurned out (gcmencBody s)

theorem roundTripState_wf (hwf : Memory.wf s.mem = true) : Memory.wf (roundTripState out s).mem = true := by
  have hmem : (roundTripState out s).mem = (gcmencBody s).mem := rfl
  rw [hmem, gcmencBody_mem]
  exact memWriteBytes_wf (gcmStored_wf hwf) _ _

variable (hlen : GcmLengthsOk s) (hwf : Memory.wf s.mem = true)
  (houtputs : Apart ⟨xval s 8, xval s 7⟩ ⟨xval s 9, xval s 10⟩)
  (hinputs : ∀ c ∈ gcmContextBuffers s, Apart c ⟨xval s 8, xval s 7⟩ ∧ Apart c ⟨xval s 9, xval s 10⟩)

include hlen hinputs in
theorem sameGcmContext_roundTripState : SameGcmContext s (roundTripState out s) := by
  refine sameGcmContext_of_sameOutside (fun r hr => ?_) rfl (gcmencBody_sameOutside hlen) fun c hc => ?_
  · exact xval_gcmTurned_others r (by revert r; decide)
  · exact List.forall_mem_cons.2 ⟨(hinputs c hc).1, List.forall_mem_singleton.2 (hinputs c hc).2⟩

include hlen hwf houtputs in
/-- GCMDEC reads the ciphertext where GCMENC left it. -/
theorem gcmInputBytes_roundTripState : gcmInputBytes (roundTripState out s) = gcmStreamed s := by
  have hholds : HoldsBytes (gcmencBody s) (xval s 8) (gcmStreamed s) := fun k hk => by
    refine gcmencBody_holds_ciphertext hlen hwf hk fun hin => ?_
    have hlength := gcmStreamed_length s
    dsimp only [Apart, inBuffer] at houtputs hin
    omega
  have hread := readBytes_of_holdsBytes hholds
  rw [gcmStreamed_length] at hread
  rw [gcmInputBytes, roundTripState, xval_gcmTurned_input, xval_gcmTurned_others 7 (by decide)]
  exact hread

include hlen hwf houtputs hinputs in
/-- GCMDEC computes the tag that GCMENC left. -/
theorem roundTripState_tag_matches : gcmTagOver (roundTripState out s) (gcmInputBytes (roundTripState out s)) =
    memReadBytes (roundTripState out s).mem (xval (roundTripState out s) 9) (xval (roundTripState out s) 10) := by
  have hread := readBytes_of_holdsBytes (gcmencBody_holds_tag (s := s) hwf)
  rw [gcmTagOver_length hlen] at hread
  rw [(sameGcmContext_roundTripState hlen hinputs).tagOver, gcmInputBytes_roundTripState hlen hwf houtputs,
    roundTripState, xval_gcmTurned_others 9 (by decide), xval_gcmTurned_others 10 (by decide)]
  exact hread.symm

include hlen hwf houtputs hinputs in
/-- Counter mode twice is the plaintext. -/
theorem gcmStreamed_roundTripState : gcmStreamed (roundTripState out s) = gcmInputBytes s := by
  obtain ⟨-, -, htwice⟩ := counterModeBytes (gcmKeys s) (gcmCounter0 s) (gcmInputBytes s)
  have hcontext := sameGcmContext_roundTripState (out := out) hlen hinputs
  rw [gcmStreamed, hcontext.keys, hcontext.counter0, gcmInputBytes_roundTripState hlen hwf houtputs]
  exact htwice

end

/-- Settles O54: the second command finds the first one's context, ciphertext and tag. -/
theorem gcmRoundTrip : Obligations.GcmRoundTrip := by
  intro s t out hwf h herr houtputs hinputs hout
  obtain ⟨hlen, hreach, rfl⟩ := exec_ended_ok h herr
  have hlen' : GcmLengthsOk (roundTripState out s) := gcmLengthsOk_gcmTurned hlen
  have hbody := gcmdecBody_of_match hlen' (roundTripState_tag_matches hlen hwf houtputs hinputs)
  rw [gcmStreamed_roundTripState hlen hwf houtputs hinputs] at hbody
  have hholds := gcmStored_holdsBytes (bs := gcmInputBytes s) (roundTripState_wf (out := out) hwf)
  rw [roundTripState, xval_gcmTurned_output] at hholds
  refine ⟨_, exec_of_checks_passed (i := .gcmdec) (s := roundTripState out s) hlen'
    (reachable_gcmTurned hreach hout), ?_⟩
  rw [commandBody, hbody]
  exact ⟨rfl, hholds⟩

/-! ## GCMDEC with one byte of the tag changed -/

section
variable {s : State} {k : Nat} {b : Byte}

/-- The state with byte `k` of the supplied tag changed. -/
def tampered (k : Nat) (b : Byte) (s : State) : State := { s with mem := memWrite s.mem (xval s 9 + k) b }

theorem tampered_sameOutside : SameOutside [⟨xval s 9 + k, 1⟩] s (tampered k b s) := by
  intro a ha
  have hout : ¬ inBuffer ⟨xval s 9 + k, 1⟩ a := ha _ (List.mem_singleton_self _)
  refine memRead_memWrite_ne _ _ ?_
  rintro rfl
  exact hout ⟨Nat.le_refl _, Nat.lt_succ_self _⟩

theorem apart_byte_of_not_inBuffer {c : Buffer} {a : Nat} (h : ¬ inBuffer c a) : Apart c ⟨a, 1⟩ := by
  dsimp only [Apart, inBuffer] at h ⊢
  omega

theorem tampered_tag_ne (hwf : Memory.wf s.mem = true) (hk : k < xval s 10) (hb : b ≠ memRead s.mem (xval s 9 + k)) :
    memReadBytes (tampered k b s).mem (xval s 9) (xval s 10) ≠ memReadBytes s.mem (xval s 9) (xval s 10) := by
  intro heq
  have hbyte := List.getElem_of_eq heq (i := k) (by rwa [memReadBytes_length])
  rw [memReadBytes_getElem, memReadBytes_getElem] at hbyte
  exact hb ((memRead_memWrite_same (lo := 0) b hwf).symm.trans hbyte)

/-- An accepted message has the tag GCMDEC computes. -/
theorem tag_matches_of_gcmdec_ok (hlen : GcmLengthsOk s) (herr : (gcmdecBody s).err = 0) :
    gcmTagOver s (gcmInputBytes s) = memReadBytes s.mem (xval s 9) (xval s 10) := by
  by_contra hno
  rw [gcmdecBody_of_mismatch hlen hno] at herr
  exact absurd (errorCode_injective (a₁ := .authenticationFailure) (a₂ := .ok) herr) (by decide)

variable (hcontext : ∀ c ∈ gcmContextBuffers s ++ [⟨xval s 6, xval s 7⟩], ¬ inBuffer c (xval s 9 + k))
include hcontext

theorem sameGcmContext_tampered : SameGcmContext s (tampered k b s) :=
  sameGcmContext_of_sameOutside (fun _ _ => rfl) rfl tampered_sameOutside fun c hc =>
    List.forall_mem_singleton.2 (apart_byte_of_not_inBuffer (hcontext c (List.mem_append_left _ hc)))

theorem gcmInputBytes_tampered : gcmInputBytes (tampered k b s) = gcmInputBytes s :=
  readBytes_of_sameOutside (c := ⟨xval s 6, xval s 7⟩) tampered_sameOutside
    (List.forall_mem_singleton.2 (apart_byte_of_not_inBuffer
      (hcontext _ (List.mem_append_right _ (List.mem_singleton_self _)))))

end

/-- Settles O55: the tag over the same ciphertext is the same, and the one supplied is another. -/
theorem tamperedTagIsRejected : Obligations.TamperedTagIsRejected := by
  intro s t k b hwf h herr hk hb hcontext
  obtain ⟨hlen, hreach, rfl⟩ := exec_ended_ok h herr
  have hmismatch : gcmTagOver (tampered k b s) (gcmInputBytes (tampered k b s)) ≠
      memReadBytes (tampered k b s).mem (xval s 9) (xval s 10) := by
    rw [(sameGcmContext_tampered hcontext).tagOver, gcmInputBytes_tampered hcontext,
      tag_matches_of_gcmdec_ok hlen herr]
    exact (tampered_tag_ne hwf hk hb).symm
  refine ⟨_, exec_of_checks_passed (i := .gcmdec) (s := tampered k b s) hlen hreach, ?_⟩
  rw [commandBody, gcmdecBody_of_mismatch (s := tampered k b s) hlen hmismatch]
  exact ⟨rfl, fun j hj => gcmStored_zeros (memWrite_wf hwf _ _) hj⟩

end Sys2Proof.Proofs
